-- ==== Sys2Proof/Word.lean ====
section
/-! DEFINITION. Word.lean: the word types of the block (00_scope.md R9, R10). -/

namespace Sys2Proof

/-- `u8`: one byte of a stream, a button, a checksum or an angle in whole degrees (R10, R29). -/
abbrev Byte := BitVec 8

/-- `u32`: a value of the time input `now`, in milliseconds (R8, R34). -/
abbrev Time := BitVec 32

end Sys2Proof
end

