-- ==== Sys2Proof/Config.lean ====
section
/-! DEFINITION. Config.lean: the constants whose value the spec fixes (00_scope.md R6, R8), the parameters that it
leaves OPEN (R7) and the free values. -/

namespace Sys2Proof

/-- `SENTINEL`: the start-of-frame marker (R6). -/
def Config.sentinel : Byte := 0xAA#8

/-- `FRAME_LEN`: bytes per frame (R6). -/
def Config.frameLen : Nat := 7

/-- `CHK_FIRST`: the first buffer index that the checksum covers (R6). It covers the packet's five bytes (R70), so their
first is here too. -/
abbrev Config.chkFirst : Nat := 1

/-- `CHK_LAST`: the last buffer index that the checksum covers (R6). -/
abbrev Config.chkLast : Nat := 5

/-- `CHK_POS`: the buffer index of the checksum byte (R6). -/
abbrev Config.chkPos : Nat := 6

/-- The buffer indices `CHK_FIRST` to `CHK_LAST`. -/
def Config.chkIndices : List Nat := List.range' Config.chkFirst (Config.chkLast + 1 - Config.chkFirst)

/-- `AXIS_WIDTH`: bits of axisX and axisY (R6). -/
abbrev Config.axisWidth : Nat := 16

/-- `BUTTON_WIDTH`: bits of button (R6). -/
abbrev Config.buttonWidth : Nat := 8

/-- The bit pattern of an axis value; as an integer it is read in two's complement, `BitVec.toInt`
(R10, R71, U14: PRESUMED by the spec, log 13). -/
abbrev AxisWord := BitVec Config.axisWidth

/-- A button value (R6, R85a). -/
abbrev ButtonWord := BitVec Config.buttonWidth

/-- `PAYLOAD_LEN`: bytes per radio payload, as the value of the 8-bit input `pl_len` (R6, R8). -/
def Config.payloadLen : Byte := 5#8

/-- `CENTER`: the neutral angle in degrees (R6). -/
def Config.center : Int := 90

/-- `ANGLE_MIN`, the lower bound of every servo angle in degrees (R6). -/
def Config.angleMin : Int := 0

/-- `ANGLE_MAX`, the upper bound of every servo angle in degrees (R6). -/
def Config.angleMax : Int := 180

/-- `AXIS_DIV`: the divisor of the axis normalisation (R8). -/
def Config.axisDiv : Int := 32767

/-- `TIMEOUT_MS`: the failsafe window in milliseconds (R6). -/
def Config.timeoutMs : Nat := 800

/-- The axis that a channel tracks (R7). -/
inductive Axis where
  | x
  | y
deriving DecidableEq, Repr

/-- `CHCFG[c]`: the axis of a channel and whether the channel is the mirrored twin (R7). -/
structure Channel where
  axis : Axis
  mirror : Bool
deriving DecidableEq, Repr

/-- The two legal compositions of the units (R3). -/
inductive Link where
  /-- FSYNC feeds PLA's pack half; PLA's unpack half feeds FSAFE. -/
  | radio
  /-- FSYNC's packet output is wired to FSAFE's packet input. -/
  | direct
deriving DecidableEq, Repr

/-- What is fixed at elaboration and OPEN in the spec (R7), and the composition (R3). `NCH` is the length of `chcfg`.
The machine takes these as data that no event changes, so a statement about every state holds of every
instantiation (DESIGN CHOICE, log 6, log 7). -/
structure Params where
  travel : Fin 256
  chcfg : List Channel
  link : Link
deriving DecidableEq, Repr

/-- `NCH`, the number of servo channels (R7). -/
def Params.nch (p : Params) : Nat := p.chcfg.length

/-- `1 ≤ NCH ≤ 16` (R7); the bounds of `TRAVEL` are those of its type (log 18). -/
def Params.wf (p : Params) : Bool := 1 ≤ p.nch && p.nch ≤ 16

/-- The spec's reference instantiation (R7), in the radio composition (DESIGN CHOICE, unsafe, log 6, log 7). -/
def Params.reference : Params where
  travel := 45
  chcfg := [⟨.x, false⟩, ⟨.x, true⟩, ⟨.y, false⟩, ⟨.y, false⟩, ⟨.y, false⟩]
  link := .radio

/-- Free value: what a read of position `i` of the frame buffer gives where the position holds no value (R23, U10), by
the counter and the position. No rule reads such a position (log 5). -/
opaque Config.unfilledByte : Nat → Nat → Byte

/-- Free value: what `last_ts` holds after a RESET operation, "(no value)" (R210, R27, U11), by the counter (log 4). -/
opaque Config.unsetTime : Nat → Time

end Sys2Proof
end

