-- ==== Sys2Proof/Syntax.lean ====
section
/-! DEFINITION. Syntax.lean: the 18 operations of 30_encoding.md R83 and the two data formats as one inductive, the word
formats (R70, R72, R76 to R78, R81, R82), and the events that a unit samples. -/

namespace Sys2Proof

/-- A ControlPacket (R10). The axes are bit patterns, read as integers in two's complement. -/
structure ControlPacket where
  axisX : AxisWord
  axisY : AxisWord
  button : ButtonWord
deriving DecidableEq, Repr

/-- The `rst` inputs that a RESET is sampled on: each sequential unit has its own (R31, R210); `both` is one line shared
by the two, as a single chip may have it (DESIGN CHOICE, log 15). -/
inductive ResetLine where
  | fsync
  | fsafe
  | both
deriving DecidableEq, Repr

/-- One constructor for each row of the opcode table; operands are the bits that the rules let an operation depend on
(the ignored bits of R86 are dropped in decoding). -/
inductive Instr where
  /-- FS.IDLE (R111). -/
  | fsIdle
  /-- FS.SOF (R113). -/
  | fsSof
  /-- FS.SKIP, `rx_data` (R112). -/
  | fsSkip (data : Byte)
  /-- FS.APPEND, `rx_data` (R114). -/
  | fsAppend (data : Byte)
  /-- FS.CLOSE, `rx_data`, the frame's checksum byte (R115). -/
  | fsClose (data : Byte)
  /-- PL.IDLE (R133). -/
  | plIdle
  /-- PL.UNPACK, `pl_data` (R131). -/
  | plUnpack (data : BitVec 40)
  /-- PL.DRAIN, `pl_len` (R132). -/
  | plDrain (len : Byte)
  /-- FSF.IDLE (R162). -/
  | fsfIdle
  /-- FSF.PKT, the packet and `now` (R163). -/
  | fsfPkt (pkt : ControlPacket) (now : Time)
  /-- FSF.POLL, `now` (R164). -/
  | fsfPoll (now : Time)
  /-- FSF.PKTPOLL, the packet and `now` (R165). -/
  | fsfPktPoll (pkt : ControlPacket) (now : Time)
  /-- RESET, on the given line (R210). -/
  | reset (line : ResetLine)
  /-- CHK of a span of any length (R100); FN-CHK5 encodes spans of five bytes (R81). -/
  | chk (span : List Byte)
  /-- PL.PACK of a packet (R130). -/
  | plPack (pkt : ControlPacket)
  /-- AX.MAP of a raw axis value (R140). -/
  | axMap (raw : AxisWord)
  /-- AX.MIRROR of an angle (R143). -/
  | axMirror (angle : Byte)
  /-- AX.MIX of two axis values (R145). -/
  | axMix (axisX axisY : AxisWord)
  /-- The data format FRAME: seven bytes, byte `i` in bits `[8i+7:8i]` (R70, R71). -/
  | frame (bytes : BitVec 56)
  /-- The data format PAYLOAD: five bytes, byte `i` in bits `[8i+7:8i]` (R72, R73). -/
  | payload (bytes : BitVec 40)
deriving DecidableEq, Repr

/-- The opcode table's mnemonic of an operation (R83). -/
def Instr.mnemonic : Instr → String
  | .fsIdle => "FS.IDLE"
  | .fsSof => "FS.SOF"
  | .fsSkip _ => "FS.SKIP"
  | .fsAppend _ => "FS.APPEND"
  | .fsClose _ => "FS.CLOSE"
  | .plIdle => "PL.IDLE"
  | .plUnpack _ => "PL.UNPACK"
  | .plDrain _ => "PL.DRAIN"
  | .fsfIdle => "FSF.IDLE"
  | .fsfPkt _ _ => "FSF.PKT"
  | .fsfPoll _ => "FSF.POLL"
  | .fsfPktPoll _ _ => "FSF.PKTPOLL"
  | .reset _ => "RESET"
  | .chk _ => "CHK"
  | .plPack _ => "PL.PACK"
  | .axMap _ => "AX.MAP"
  | .axMirror _ => "AX.MIRROR"
  | .axMix _ _ => "AX.MIX"
  | .frame _ => "FRAME"
  | .payload _ => "PAYLOAD"

/-- The input port that a word arrives on, with the word's format: RXW, PLW, CTLW (R76 to R78), RST (R82, with the line),
the function formats (R81) and the two data formats (R70, R72). A word does not name its port (log 16, log 17). -/
inductive Format where
  | rxw
  | plw
  | ctlw
  | rst (line : ResetLine)
  | fnChk5
  | fnCp
  | fnAx
  | fnAng
  | fnXy
  | frame56
  | payload40
deriving DecidableEq, Repr

/-- Bits of a word of the format (R70, R72, R76 to R78, R81, R82). -/
def Format.width : Format → Nat
  | .rxw => 9
  | .plw => 49
  | .ctlw => 74
  | .rst _ => 1
  | .fnChk5 => 40
  | .fnCp => 40
  | .fnAx => 16
  | .fnAng => 8
  | .fnXy => 32
  | .frame56 => 8 * Config.frameLen
  | .payload40 => 8 * Config.payloadLen.toNat

/-- Whole bytes that hold a word of the format. -/
def Format.byteCount (f : Format) : Nat := (f.width + 7) / 8

/-- The format of an operation's encoding (R83). -/
def Instr.format : Instr → Format
  | .fsIdle => .rxw
  | .fsSof => .rxw
  | .fsSkip _ => .rxw
  | .fsAppend _ => .rxw
  | .fsClose _ => .rxw
  | .plIdle => .plw
  | .plUnpack _ => .plw
  | .plDrain _ => .plw
  | .fsfIdle => .ctlw
  | .fsfPkt _ _ => .ctlw
  | .fsfPoll _ => .ctlw
  | .fsfPktPoll _ _ => .ctlw
  | .reset line => .rst line
  | .chk _ => .fnChk5
  | .plPack _ => .fnCp
  | .axMap _ => .fnAx
  | .axMirror _ => .fnAng
  | .axMix _ _ => .fnXy
  | .frame _ => .frame56
  | .payload _ => .payload40

/-- What FSAFE samples in one clock cycle beside its packet inputs (R31, R34). -/
structure FsafeInputs where
  rst : Bool
  poll : Bool
  now : Time
deriving DecidableEq, Repr

/-- No reset and no poll; `now`, which such a cycle does not read without a packet (R34), is 0. -/
def FsafeInputs.idle : FsafeInputs where
  rst := false
  poll := false
  now := 0

/-- What one unit samples on its input ports in one clock cycle (R13, R31 to R34, R76 to R82). -/
inductive Event where
  /-- FSYNC samples `rst` and RXW. In the direct composition FSAFE, on the same chip, samples the given inputs and FSYNC's
  packet output in the same cycle (R3, R64, R188e; log 7); in the radio composition nothing reads the given inputs. -/
  | rx (rst : Bool) (word : BitVec 9) (fsafe : FsafeInputs)
  /-- The unpack half of PLA samples PLW. PLA has no state, no `rst` input and no reset (R31, R33, R210), so there is no
  cycle of PLA with `rst = 1`: what a reset of another unit of its node does to a payload of that cycle is left open by R80
  and R210, and here the payload is unpacked or drained as in any other cycle (DESIGN CHOICE, unsafe, log 25). In the radio
  composition FSAFE, on the receiving node, samples the given inputs and PLA's unpacked packet in the same cycle (R3, R131,
  R160; log 7); in the direct composition nothing reads the given inputs. -/
  | pl (word : BitVec 49) (fsafe : FsafeInputs)
  /-- FSAFE samples `rst` and CTLW, all of it driven from outside. -/
  | ctl (rst : Bool) (word : BitVec 74)
  /-- `rst = 1` on a line, with no other input of the cycle told. -/
  | resetPulse (line : ResetLine)
  /-- A five-byte span on CHK's input. -/
  | chk5 (word : BitVec 40)
  /-- A packet on the input of PLA's pack half. -/
  | cp (word : BitVec 40)
  /-- A raw axis value on AX.MAP's input. -/
  | ax (word : BitVec 16)
  /-- An angle on AX.MIRROR's input. -/
  | ang (word : BitVec 8)
  /-- Two axis values on AX.MIX's input. -/
  | xy (word : BitVec 32)
  /-- Seven bytes read as the layout FRAME56: the sentinel, then these six (byte `i + 1` in bits `[8i+7:8i]`). -/
  | frame56 (afterSentinel : BitVec 48)
  /-- Five bytes read as the layout PAYLOAD40. -/
  | payload40 (word : BitVec 40)
deriving DecidableEq, Repr

/-- What FSAFE samples beside its packet inputs in the cycle of an event of the unit that drives them: FSYNC on one chip,
PLA's unpack half in the receiving node (R3, R131). None for every other event. -/
def Event.linkedInputs (link : Link) : Event → Option FsafeInputs
  | .rx _ _ inputs => if link = .direct then some inputs else none
  | .pl _ inputs => if link = .radio then some inputs else none
  | .ctl _ _ => none
  | .resetPulse _ => none
  | .chk5 _ => none
  | .cp _ => none
  | .ax _ => none
  | .ang _ => none
  | .xy _ => none
  | .frame56 _ => none
  | .payload40 _ => none

end Sys2Proof
end

