-- ==== Sys2Proof/WellFormed.lean ====
section
/-! DEFINITION. WellFormed.lean: which terms of `Instr` stand for an operation that some word of its format selects
(log 12). -/

namespace Sys2Proof

/-- FS.SKIP is selected by a byte other than the sentinel (R76, R112). -/
def Instr.skipByteOk (data : Byte) : Bool := data != Config.sentinel

/-- PL.DRAIN is selected by a length other than `PAYLOAD_LEN` (R77, R132). -/
def Instr.drainLenOk (len : Byte) : Bool := len != Config.payloadLen

/-- FN-CHK5 holds a span of five bytes (R81). -/
def Instr.chkSpanOk (span : List Byte) : Bool := span.length == 5

/-- Byte 0 of a frame is the sentinel (R70). -/
def Instr.frameStartOk (bytes : BitVec 56) : Bool := bytes.extractLsb' 0 8 == Config.sentinel

/-- Every check of an instruction; the operations without one accept every operand (R84, R85). -/
def Instr.wf : Instr → Bool
  | .fsSkip data => Instr.skipByteOk data
  | .plDrain len => Instr.drainLenOk len
  | .chk span => Instr.chkSpanOk span
  | .frame bytes => Instr.frameStartOk bytes
  | .fsIdle => true
  | .fsSof => true
  | .fsAppend _ => true
  | .fsClose _ => true
  | .plIdle => true
  | .plUnpack _ => true
  | .fsfIdle => true
  | .fsfPkt _ _ => true
  | .fsfPoll _ => true
  | .fsfPktPoll _ _ => true
  | .reset _ => true
  | .plPack _ => true
  | .axMap _ => true
  | .axMirror _ => true
  | .axMix _ _ => true
  | .payload _ => true

end Sys2Proof
end

