-- ==== Sys2Proof/Decode.lean ====
section
/-! DEFINITION. Decode.lean: which operation an event selects (30_encoding.md R76 to R82, 41_frame_sync.md R110,
44_failsafe.md R160), the byte-level decoder that rejects by name, and the encoder after it. -/

namespace Sys2Proof

/-! ### Bytes, words and fields -/

/-- Byte `i` of a byte sequence written as one word: bits `[8i+7:8i]` (R9). -/
def byteAt {n : Nat} (w : BitVec n) (i : Nat) : Byte := w.extractLsb' (8 * i) 8

/-- The 16-bit field with low byte `lo` and high byte `hi`, little-endian (R53): `sext_16` of the two bytes as a bit
pattern. -/
def s16le (lo hi : Byte) : AxisWord := hi ++ lo

/-- The five data bytes of a Frame or the five bytes of a RadioPayload, read from index `first` on, assembled to a packet
(R71, R73). -/
def packetAt (read : Nat → Byte) (first : Nat) : ControlPacket where
  axisX := s16le (read first) (read (first + 1))
  axisY := s16le (read (first + 2)) (read (first + 3))
  button := read (first + 4)

/-- `payloadDecode` (R73). -/
def payloadDecode (p : BitVec 40) : ControlPacket := packetAt (byteAt p) 0

/-- The five bytes of `payloadEncode`, first byte first (R73). -/
def payloadBytes (p : ControlPacket) : List Byte :=
  [byteAt p.axisX 0, byteAt p.axisX 1, byteAt p.axisY 0, byteAt p.axisY 1, p.button]

/-- `payloadEncode` as one word, byte `i` in bits `[8i+7:8i]` (R72, R73). -/
def payloadEncode (p : ControlPacket) : BitVec 40 :=
  p.button ++ byteAt p.axisY 1 ++ byteAt p.axisY 0 ++ byteAt p.axisX 1 ++ byteAt p.axisX 0

/-- `frameDecode` of a frame word (R71). -/
def frameDecode (f : BitVec 56) : ControlPacket := packetAt (byteAt f) Config.chkFirst

/-- The value of a byte sequence whose first byte is the least significant (R9). -/
def leNat : List Byte → Nat
  | [] => 0
  | b :: bs => b.toNat + 256 * leNat bs

/-- The first `count` bytes of a value, least significant first (R9). -/
def leBytes : Nat → Nat → List Byte
  | 0, _ => []
  | count + 1, w => BitVec.ofNat 8 w :: leBytes count (w / 256)

/-! ### Operation selection -/

/-- What the selection of an operation reads beside the word: FSYNC's sequencing state (R79, R110). -/
structure DecodeCtx where
  inFrame : Bool
  fill : BitVec 3
deriving DecidableEq, Repr

/-- FSYNC scanning, as it is after reset (R36). -/
def DecodeCtx.afterReset : DecodeCtx where
  inFrame := false
  fill := 0

/-- `rx_valid` (R76). -/
def rxValid (w : BitVec 9) : Bool := w.getLsbD 8

/-- `rx_data` (R76). -/
def rxData (w : BitVec 9) : Byte := w.extractLsb' 0 8

/-- FSYNC's dispatch of RXW (R76, R110); the states that R24 excludes follow its tests as written (DEDUCED, log 20). -/
def decodeRxw (inFrame : Bool) (fill : BitVec 3) (w : BitVec 9) : Instr :=
  if rxValid w then
    if inFrame then
      if fill.toNat ≤ Config.chkLast then .fsAppend (rxData w) else .fsClose (rxData w)
    else
      if rxData w = Config.sentinel then .fsSof else .fsSkip (rxData w)
  else .fsIdle

/-- `pl_valid` (R77). -/
def plValid (w : BitVec 49) : Bool := w.getLsbD 48

/-- `pl_len` (R77). -/
def plLen (w : BitVec 49) : Byte := w.extractLsb' 40 8

/-- `pl_data` (R77). -/
def plData (w : BitVec 49) : BitVec 40 := w.extractLsb' 0 40

/-- PLA's dispatch of PLW (R77). -/
def decodePlw (w : BitVec 49) : Instr :=
  if plValid w then
    if plLen w = Config.payloadLen then .plUnpack (plData w) else .plDrain (plLen w)
  else .plIdle

/-- `poll` (R78). -/
def ctlPoll (w : BitVec 74) : Bool := w.getLsbD 73

/-- `pkt_valid` (R78). -/
def ctlPktValid (w : BitVec 74) : Bool := w.getLsbD 72

/-- `pkt_axisX`, `pkt_axisY`, `pkt_button` (R78). -/
def ctlPacket (w : BitVec 74) : ControlPacket where
  axisX := w.extractLsb' 56 Config.axisWidth
  axisY := w.extractLsb' 40 Config.axisWidth
  button := w.extractLsb' 32 Config.buttonWidth

/-- `now` (R78). -/
def ctlNow (w : BitVec 74) : Time := w.extractLsb' 0 32

/-- FSAFE's dispatch of CTLW (R78, R160). -/
def decodeCtlw (w : BitVec 74) : Instr :=
  match ctlPktValid w, ctlPoll w with
  | false, false => .fsfIdle
  | true, false => .fsfPkt (ctlPacket w) (ctlNow w)
  | false, true => .fsfPoll (ctlNow w)
  | true, true => .fsfPktPoll (ctlPacket w) (ctlNow w)

/-- CTLW put together from its ports (R78). -/
def ctlWord (poll pktValid : Bool) (pkt : ControlPacket) (now : Time) : BitVec 74 :=
  BitVec.ofBool poll ++ BitVec.ofBool pktValid ++ pkt.axisX ++ pkt.axisY ++ pkt.button ++ now

/-- CTLW with the packet inputs driven by the wire; without a packet they are 0, which nothing reads (R86). -/
def linkedWord (upstream : Option ControlPacket) (poll : Bool) (now : Time) : BitVec 74 :=
  match upstream with
  | some pkt => ctlWord poll true pkt now
  | none => ctlWord poll false ⟨0, 0, 0⟩ now

/-- The five bytes of FN-CHK5, byte `i` in bits `[8i+7:8i]` (R81). -/
def chkSpan (w : BitVec 40) : List Byte :=
  [byteAt w 0, byteAt w 1, byteAt w 2, byteAt w 3, byteAt w 4]

/-- The packet of FN-CP: axisX in `[39:24]`, axisY in `[23:8]`, button in `[7:0]` (R81). -/
def cpPacket (w : BitVec 40) : ControlPacket where
  axisX := w.extractLsb' 24 Config.axisWidth
  axisY := w.extractLsb' 8 Config.axisWidth
  button := w.extractLsb' 0 Config.buttonWidth

/-- FSAFE's operation with its packet inputs on the wire, which carries a packet or none (R160, R188). -/
def decodeLinked (upstream : Option ControlPacket) (inputs : FsafeInputs) : Instr :=
  if inputs.rst then .reset .fsafe else decodeCtlw (linkedWord upstream inputs.poll inputs.now)

/-- The operation that an event selects. `rst = 1` wins over every row of the same unit (R80, R82, R188); of the event
words, RXW and CTLW belong to units with a `rst` (R31), and PLW does not (DESIGN CHOICE, log 25). -/
def decodeEvent (ctx : DecodeCtx) : Event → Instr
  | .rx rst w _ => if rst then .reset .fsync else decodeRxw ctx.inFrame ctx.fill w
  | .pl w _ => decodePlw w
  | .ctl rst w => if rst then .reset .fsafe else decodeCtlw w
  | .resetPulse line => .reset line
  | .chk5 w => .chk (chkSpan w)
  | .cp w => .plPack (cpPacket w)
  | .ax w => .axMap w
  | .ang w => .axMirror w
  | .xy w => .axMix (w.extractLsb' 16 Config.axisWidth) (w.extractLsb' 0 Config.axisWidth)
  | .frame56 w => .frame (w ++ Config.sentinel)
  | .payload40 w => .payload w

/-! ### The opcode table's rows of the event words -/

/-- The `when` column of the opcode table for the event words (R76 to R78). -/
inductive RowWhen where
  | always
  | notInFrame
  | filling
  | full
deriving DecidableEq, Repr

/-- The state condition of a row (R76). -/
def RowWhen.met (inFrame : Bool) (fill : BitVec 3) : RowWhen → Bool
  | .always => true
  | .notInFrame => !inFrame
  | .filling => inFrame && Config.chkFirst ≤ fill.toNat && fill.toNat ≤ Config.chkLast
  | .full => inFrame && fill.toNat == Config.chkPos

/-- A row of the opcode table: it matches a word whose bits under `mask` are those of `pattern`. -/
structure OpRow (n : Nat) where
  mnemonic : String
  pattern : BitVec n
  mask : BitVec n
  cond : RowWhen
deriving DecidableEq, Repr

/-- The rows of format RXW, in the table's order (R76). -/
def rxwRows : List (OpRow 9) :=
  [⟨"FS.IDLE", 0x000#9, 0x100#9, .always⟩, ⟨"FS.SOF", 0x1AA#9, 0x1FF#9, .notInFrame⟩,
   ⟨"FS.SKIP", 0x100#9, 0x100#9, .notInFrame⟩, ⟨"FS.APPEND", 0x100#9, 0x100#9, .filling⟩,
   ⟨"FS.CLOSE", 0x100#9, 0x100#9, .full⟩]

/-- The rows of format PLW, in the table's order (R77). -/
def plwRows : List (OpRow 49) :=
  [⟨"PL.IDLE", 0x0000000000000#49, 0x1000000000000#49, .always⟩,
   ⟨"PL.UNPACK", 0x1050000000000#49, 0x1FF0000000000#49, .always⟩,
   ⟨"PL.DRAIN", 0x1000000000000#49, 0x1000000000000#49, .always⟩]

/-- The rows of format CTLW, in the table's order (R78). -/
def ctlwRows : List (OpRow 74) :=
  [⟨"FSF.IDLE", 0x0000000000000000000#74, 0x3000000000000000000#74, .always⟩,
   ⟨"FSF.PKT", 0x1000000000000000000#74, 0x3000000000000000000#74, .always⟩,
   ⟨"FSF.POLL", 0x2000000000000000000#74, 0x3000000000000000000#74, .always⟩,
   ⟨"FSF.PKTPOLL", 0x3000000000000000000#74, 0x3000000000000000000#74, .always⟩]

/-- The first row whose condition and whose match and mask both hold (R80). -/
def firstRow {n : Nat} (rows : List (OpRow n)) (inFrame : Bool) (fill : BitVec 3) (w : BitVec n) :
    Option String :=
  (rows.find? fun r => r.cond.met inFrame fill && w &&& r.mask == r.pattern).map OpRow.mnemonic

/-! ### Bytes to operations -/

/-- Why bytes on a port are no word of its format (log 17). -/
inductive Reject where
  /-- The number of bytes is not the format's. -/
  | byteCount
  /-- A bit above the format's width is 1. -/
  | bitsAboveWidth
  /-- The RST word 0: `rst = 0` selects no operation of format RST (R82). -/
  | rstLow
  /-- The first byte of FRAME56 is not the sentinel (R70). -/
  | noSentinel
deriving DecidableEq, Repr

/-- The event of a word on a port, or why there is none. -/
def eventOfWord (f : Format) (w : Nat) : Except Reject Event :=
  match f with
  | .rxw => .ok (.rx false (BitVec.ofNat 9 w) FsafeInputs.idle)
  | .plw => .ok (.pl (BitVec.ofNat 49 w) FsafeInputs.idle)
  | .ctlw => .ok (.ctl false (BitVec.ofNat 74 w))
  | .rst line => if w = 1 then .ok (.resetPulse line) else .error .rstLow
  | .fnChk5 => .ok (.chk5 (BitVec.ofNat 40 w))
  | .fnCp => .ok (.cp (BitVec.ofNat 40 w))
  | .fnAx => .ok (.ax (BitVec.ofNat 16 w))
  | .fnAng => .ok (.ang (BitVec.ofNat 8 w))
  | .fnXy => .ok (.xy (BitVec.ofNat 32 w))
  | .frame56 =>
    if BitVec.ofNat 8 w = Config.sentinel then .ok (.frame56 (BitVec.ofNat 48 (w / 256)))
    else .error .noSentinel
  | .payload40 => .ok (.payload40 (BitVec.ofNat 40 w))

/-- The event of the bytes on a port, first byte least significant (R9). -/
def eventOfBytes (f : Format) (bytes : List Byte) : Except Reject Event :=
  if bytes.length ≠ f.byteCount then .error .byteCount
  else if 2 ^ f.width ≤ leNat bytes then .error .bitsAboveWidth
  else eventOfWord f (leNat bytes)

/-- The decoder on bytes: total, rejecting by name. -/
def decodeBytes (f : Format) (ctx : DecodeCtx) (bytes : List Byte) : Except Reject Instr :=
  match eventOfBytes f bytes with
  | .ok e => .ok (decodeEvent ctx e)
  | .error r => .error r

/-! ### The host's table words -/

/-- The port that a table word of `nbits` bits is presented on. A word does not name its port, and several formats have
one size in whole bytes: RXW before FN-AX, RST before FN-ANG, FN-CHK5 before FN-CP and PAYLOAD40, FRAME56 before PLW
where the first byte is the sentinel (DESIGN CHOICE, log 16). -/
def tableFormat (nbits w : Nat) : Option Format :=
  match nbits with
  | 1 => some (.rst .both)
  | 8 => if w = 1 then some (.rst .both) else some .fnAng
  | 9 => some .rxw
  | 16 => if w < 512 then some .rxw else some .fnAx
  | 32 => some .fnXy
  | 40 => some .fnChk5
  | 49 => some .plw
  | 56 => if w % 256 = 0xAA then some .frame56 else some .plw
  | 74 => some .ctlw
  | 80 => some .ctlw
  | _ => none

/-- The event that a table word stands for, where its bits are a word of the port's format. -/
def tableEvent (nbits w : Nat) : Option Event :=
  match tableFormat nbits w with
  | none => none
  | some f =>
    if w < 2 ^ (8 * f.byteCount) then
      match eventOfBytes f (leBytes f.byteCount w) with
      | .ok e => some e
      | .error _ => none
    else none

/-- The operation that the decoder reads from a table word, with FSYNC as it is after reset. -/
def decodeTableWord (nbits w : Nat) : Option Instr :=
  (tableEvent nbits w).map (decodeEvent DecodeCtx.afterReset)

/-! ### The encoder -/

/-- Whether FSYNC's state is one in which the operation can be selected (R76, R110); the other units' operations are
selected by their word alone. -/
def Instr.selectable (inFrame : Bool) (fill : BitVec 3) : Instr → Bool
  | .fsSof => !inFrame
  | .fsSkip _ => !inFrame
  | .fsAppend _ => inFrame && fill.toNat ≤ Config.chkLast
  | .fsClose _ => inFrame && !(fill.toNat ≤ Config.chkLast)
  | .fsIdle => true
  | .plIdle => true
  | .plUnpack _ => true
  | .plDrain _ => true
  | .fsfIdle => true
  | .fsfPkt _ _ => true
  | .fsfPoll _ => true
  | .fsfPktPoll _ _ => true
  | .reset _ => true
  | .chk _ => true
  | .plPack _ => true
  | .axMap _ => true
  | .axMirror _ => true
  | .axMix _ _ => true
  | .frame _ => true
  | .payload _ => true

/-- The word of an operation, its ignored bits 0 (R70, R72, R76 to R78, R81, R82). -/
def encodeWord : Instr → Nat
  | .fsIdle => 0
  | .fsSof => (1#1 ++ Config.sentinel).toNat
  | .fsSkip data => (1#1 ++ data).toNat
  | .fsAppend data => (1#1 ++ data).toNat
  | .fsClose data => (1#1 ++ data).toNat
  | .plIdle => 0
  | .plUnpack data => (1#1 ++ Config.payloadLen ++ data).toNat
  | .plDrain len => (1#1 ++ len ++ 0#40).toNat
  | .fsfIdle => 0
  | .fsfPkt pkt now => (ctlWord false true pkt now).toNat
  | .fsfPoll now => (ctlWord true false ⟨0, 0, 0⟩ now).toNat
  | .fsfPktPoll pkt now => (ctlWord true true pkt now).toNat
  | .reset _ => 1
  | .chk span => leNat span
  | .plPack pkt => (pkt.axisX ++ pkt.axisY ++ pkt.button).toNat
  | .axMap raw => raw.toNat
  | .axMirror angle => angle.toNat
  | .axMix axisX axisY => (axisX ++ axisY).toNat
  | .frame bytes => bytes.toNat
  | .payload bytes => bytes.toNat

/-- The bytes of an operation's word on its port, `i.format`. -/
def encode (i : Instr) : List Byte := leBytes i.format.byteCount (encodeWord i)

end Sys2Proof
end

