-- ==== Sys2Proof/Machine/State.lean ====
section
/-! DEFINITION. State.lean: the state of 10_state.md R20, the output ports of R32 to R34, the parameters, the environment's
events, and the state after reset (R36). -/

namespace Sys2Proof.Machine

/-- Why the machine stops with a fault. "Nothing in FBW-LCB faults, traps, hangs or is fatal" (R14): there is no
constructor, and nobody raises one. Safe: the spec gives every event an effect (R84; log 24). -/
inductive Fault where
deriving DecidableEq, Repr

/-- Why an operation has no meaning. -/
inductive Refusal where
  /-- Raised only by an arm of `exec` whose operation has no meaning yet; there is none. Safe. -/
  | notModelled (mnemonic : String)
deriving DecidableEq, Repr

/-- `link_state` (R25). -/
inductive LinkState where
  | active
  | failsafe
deriving DecidableEq, Repr

/-- The bit of `link_state`: 0 is Active, 1 is Failsafe (R25). -/
def LinkState.bit : LinkState → Bool
  | .active => false
  | .failsafe => true

/-- A diagnostic of one event (R181). -/
inductive Diag where
  | quiet
  | skip
  | badSum
  | badLen
deriving DecidableEq, Repr

/-- The 2-bit code driven on `fs_diag` or `pl_diag` (R181). -/
def Diag.code : Diag → BitVec 2
  | .quiet => 0
  | .skip => 1
  | .badSum => 2
  | .badLen => 3

/-- The result of a combinational function presented alone (R81), or of a data format read as a packet (R71, R73, R75). -/
inductive FnResult where
  | sum (value : Byte)
  | angle (value : Byte)
  | mirrored (value : Byte)
  | channels (values : List Byte)
  | framePacket (pkt : ControlPacket) (valid : Bool)
  | payloadPacket (pkt : ControlPacket)
deriving DecidableEq, Repr

/-- The output ports that an event drives (R32 to R34). A data output is present only with its strobe (U13, log 8). -/
structure Outputs where
  /-- `pkt_valid` with `pkt_axisX`, `pkt_axisY`, `pkt_button` (R32). -/
  pkt : Option ControlPacket
  /-- `fs_diag` (R32, R181). -/
  fsDiag : Diag
  /-- `tx_valid` with `tx_data` (R33). -/
  tx : Option (BitVec 40)
  /-- `upk_valid` with `upk_axisX`, `upk_axisY`, `upk_button` (R33). -/
  upk : Option ControlPacket
  /-- `pl_diag` (R33, R181). -/
  plDiag : Diag
  /-- `servo_upd` (R34). -/
  servoUpd : Bool
  /-- The result output of a function format (R81; log 10). -/
  fn : Option FnResult
deriving DecidableEq, Repr

/-- No output driven by the event: every strobe and diagnostic 0 (R11, R36). -/
def Outputs.idle : Outputs where
  pkt := none
  fsDiag := .quiet
  tx := none
  upk := none
  plDiag := .quiet
  servoUpd := false
  fn := none

/-- What one event shows of the machine: its packets, servo update and diagnostics, and the levels of the pins after it, the
link state and the angles (R13, R34). -/
structure Observation where
  out : Outputs
  /-- The pin `failsafe` (R34). -/
  failsafe : Bool
  /-- The pins `servo_angle[c]` (R34). -/
  servoAngle : List Byte
deriving DecidableEq, Repr

/-- FSYNC's state (R21 to R23). -/
structure Fsync where
  /-- `in_frame` (R21). -/
  inFrame : Bool
  /-- `fill` (R22). -/
  fill : BitVec 3
  /-- `buf`: the bytes that hold a value, `buf[0]` first (R23; log 5). -/
  buf : List Byte
deriving DecidableEq, Repr

/-- FSYNC after reset (R36). -/
def Fsync.reset : Fsync where
  inFrame := false
  fill := 0
  buf := []

/-- FSAFE's state (R25 to R29). -/
structure Fsafe where
  /-- `link_state` (R25). -/
  linkState : LinkState
  /-- `ts_valid` (R26). -/
  tsValid : Bool
  /-- `last_ts` (R27). -/
  lastTs : Time
  /-- `fresh` (R28). -/
  fresh : Bool
  /-- `servo_angle[0..NCH-1]` (R29). -/
  servoAngle : List Byte
deriving DecidableEq, Repr

/-- `CENTER` in each of `nch` channels. -/
def neutralAngles (nch : Nat) : List Byte := List.replicate nch (BitVec.ofInt 8 Config.center)

/-- FSAFE after reset with `nch` channels (R36), `last_ts` holding the given value: the spec gives it none. -/
def Fsafe.resetWith (nch : Nat) (lastTs : Time) : Fsafe where
  linkState := .failsafe
  tsValid := false
  lastTs := lastTs
  fresh := false
  servoAngle := neutralAngles nch

/-- The machine: one FSYNC, one FSAFE (R20, R195), what is fixed at elaboration, what the environment will present, and
what the event just taken drives. -/
structure State where
  params : Params
  fsync : Fsync
  fsafe : Fsafe
  /-- The outputs of the event just taken (log 8). -/
  out : Outputs
  /-- The events that the environment presents, oldest first (R12, R58 to R62, U7; log 2). -/
  input : List Event
  /-- The model's own counter of free values (log 4). -/
  freeCount : Nat
deriving DecidableEq, Repr

/-- The machine of an instantiation right after power-up (R36, R211). `last_ts` is 0: the spec gives it no value (DESIGN
CHOICE, unsafe, log 3). Nothing is presented yet (log 2). -/
def State.resetWith (p : Params) : State where
  params := p
  fsync := Fsync.reset
  fsafe := Fsafe.resetWith p.nch 0
  out := Outputs.idle
  input := []
  freeCount := 0

/-- The machine right after reset, in the spec's reference instantiation (DESIGN CHOICE, unsafe, log 6, log 7). -/
def State.reset : State := State.resetWith Params.reference

end Sys2Proof.Machine
end

