-- ==== Sys2Proof/Machine/Operands.lean ====
section
/-! DEFINITION. Operands.lean: the combinational functions of CHK, PLA and AXMAP on their operands (40_checksum.md R100,
30_encoding.md R71 to R75, 43_axis_mapper.md R140 to R145). -/

namespace Sys2Proof.Machine

/-- `chk`: the exact sum of the unsigned bytes, narrowed to 8 bits (R100). -/
def chk (span : List Byte) : Byte := BitVec.ofNat 8 (span.map BitVec.toNat).sum

/-- Frame validity: the sentinel first, and the checksum of the covered bytes equal to the checksum byte (R75). -/
def validFrame (f : BitVec 56) : Bool :=
  byteAt f 0 == Config.sentinel &&
    chk (Config.chkIndices.map (byteAt f)) == byteAt f Config.chkPos

/-- `frameEncode`, the reference frame encoder, first byte first (R74). -/
def frameEncode (p : ControlPacket) : List Byte :=
  Config.sentinel :: payloadBytes p ++ [chk (payloadBytes p)]

/-- `clamp(v, lo, hi)` (R11). -/
def clamp (v lo hi : Int) : Int := if v < lo then lo else if hi < v then hi else v

/-- The angle that an integer of degrees narrows to: clamped to the bounds, as a `u8` (R6, R29). -/
def angleOf (degrees : Int) : Byte :=
  BitVec.ofInt 8 (clamp degrees Config.angleMin Config.angleMax)

/-- `delta`: the clamped axis value times `TRAVEL`, exact, divided by `AXIS_DIV` toward zero (R140). -/
def axisDelta (travel : Nat) (raw : AxisWord) : Int :=
  (clamp raw.toInt (-Config.axisDiv) Config.axisDiv * travel).tdiv Config.axisDiv

/-- `mapAxis(raw)` (R140). -/
def mapAxis (travel : Nat) (raw : AxisWord) : Byte :=
  angleOf (Config.center + axisDelta travel raw)

/-- `mirror(a)` (R143). -/
def mirror (a : Byte) : Byte := angleOf (Config.angleMax - a.toNat)

/-- The angle of one channel from the two mapped axes (R145). -/
def channelAngle (ax ay : Byte) (c : Channel) : Byte :=
  let a := match c.axis with
    | .x => ax
    | .y => ay
  if c.mirror then mirror a else a

/-- `mix(axisX, axisY)`: the angle of every channel, channel 0 first (R145). -/
def mix (p : Params) (axisX axisY : AxisWord) : List Byte :=
  p.chcfg.map (channelAngle (mapAxis p.travel axisX) (mapAxis p.travel axisY))

end Sys2Proof.Machine
end

