-- ==== Sys2Proof/Machine/Flags.lean ====
section
/-! DEFINITION. Flags.lean: the timeout predicate (44_failsafe.md R161) and the level views of the output ports
(10_state.md R32 to R34). -/

namespace Sys2Proof.Machine

/-- `elapsed = (now - last_ts) mod 2^32` (R161). -/
def elapsed (now lastTs : Time) : Time := now - lastTs

/-- `expired`: never a packet, or strictly more than `TIMEOUT_MS` since the last one; `last_ts` is not read when
`ts_valid = 0` (R161). -/
def Fsafe.expired (f : Fsafe) (now : Time) : Bool :=
  !f.tsValid || decide (Config.timeoutMs < (elapsed now f.lastTs).toNat)

/-- The pin `failsafe`: `link_state` after the event (R34). -/
def State.failsafePin (s : State) : Bool := s.fsafe.linkState.bit

/-- The pins `servo_angle[c]`, driven continuously (R34). -/
def State.servoPins (s : State) : List Byte := s.fsafe.servoAngle

/-- What the state shows on the ports once an event is taken (R13, R32 to R34). -/
def State.observation (s : State) : Observation where
  out := s.out
  failsafe := s.failsafePin
  servoAngle := s.servoPins

/-- `pkt_valid` (R32). -/
def Outputs.pktValid (o : Outputs) : Bool := o.pkt.isSome

/-- `tx_valid` (R33). -/
def Outputs.txValid (o : Outputs) : Bool := o.tx.isSome

/-- `upk_valid` (R33). -/
def Outputs.upkValid (o : Outputs) : Bool := o.upk.isSome

end Sys2Proof.Machine
end

