-- ==== Sys2Proof/Machine/Ops.lean ====
section
/-! DEFINITION. Ops.lean: the shared operations over the state: the frame buffer, the outputs, taking a packet, the poll
check with the entry to Failsafe, reset, and sampling the next event. -/

namespace Sys2Proof.Machine

/-! ### Outputs -/

/-- The state with no output driven: the outputs of an event are those it drives and no others (R11). -/
def State.quiet (s : State) : State := { s with out := Outputs.idle }

/-- `raise Diag(code)` on `fs_diag`: it changes no state and diverts no control flow (R181). -/
def State.raiseFs (s : State) (d : Diag) : State := { s with out := { s.out with fsDiag := d } }

/-- `raise Diag(code)` on `pl_diag` (R181). -/
def State.raisePl (s : State) (d : Diag) : State := { s with out := { s.out with plDiag := d } }

/-- The result output of a function format (R81). -/
def State.driveFn (s : State) (r : FnResult) : State := { s with out := { s.out with fn := some r } }

/-- PL.PACK's outputs for a packet presented to it: `tx_valid = 1` and `tx_data` (R130). -/
def State.driveTx (s : State) (p : ControlPacket) : State :=
  { s with out := { s.out with tx := some (payloadEncode p) } }

/-- `emit Unpacked(...)` (R131). -/
def State.emitUnpacked (s : State) (p : ControlPacket) : State :=
  { s with out := { s.out with upk := some p } }

/-- `emit Packet(...)` (R115). In the radio composition PLA's pack half is combinational on the packet outputs, so it drives
`tx_data` in the same event (R33, R130, R135; DEDUCED, safe, log 9). -/
def State.emitPacket (s : State) (p : ControlPacket) : State :=
  let t := { s with out := { s.out with pkt := some p } }
  match s.params.link with
  | .radio => t.driveTx p
  | .direct => t

/-! ### The frame buffer and FSYNC's sequencing -/

/-- `MemRead(i, 1)`: position `i` of the buffer, defined below `fill` (R11, R23); beyond it a free value (U10, log 5). -/
def bufRead (free : Nat) (buf : List Byte) (i : Nat) : Byte :=
  match buf[i]? with
  | some b => b
  | none => Config.unfilledByte free i

/-- `MemWrite(i, 1, v)`, keeping the bytes that hold a value (R11, R23). -/
def bufWrite (buf : List Byte) (i : Nat) (v : Byte) : List Byte :=
  buf.take i ++ v :: buf.drop (i + 1)

/-- The five bytes `buf[1..5]` (R101, R115). -/
def dataBytes (free : Nat) (buf : List Byte) : List Byte := Config.chkIndices.map (bufRead free buf)

/-- The packet of `buf[1..5]` (R71, R115). -/
def bufPacket (free : Nat) (buf : List Byte) : ControlPacket :=
  packetAt (bufRead free buf) Config.chkFirst

/-- FS.SOF's writes: the buffer emptied, the sentinel stored at index 0, `seq <- (1, 1)` (R113). -/
def State.openFrame (s : State) : State :=
  { s with fsync := { inFrame := true, fill := 1, buf := bufWrite [] 0 Config.sentinel } }

/-- FS.APPEND's writes: `buf[fill] <- v`, `seq <- (1, fill + 1)` (R114). -/
def State.storeByte (s : State) (v : Byte) : State :=
  { s with fsync :=
      { inFrame := true, fill := s.fsync.fill + 1, buf := bufWrite s.fsync.buf s.fsync.fill.toNat v } }

/-- FS.CLOSE's writes: `seq <- (0, 0)`, the buffer holds no value (R115). The counter of free values moves past those of
this event's reads (log 5). -/
def State.closeFrame (s : State) : State :=
  { s with fsync := Fsync.reset, freeCount := s.freeCount + 1 }

/-! ### FSAFE: taking a packet, and the poll check with the entry to Failsafe -/

/-- A valid packet arrives (R163): the one return from Failsafe (R190). -/
def State.acceptPacket (s : State) (p : ControlPacket) (now : Time) : State :=
  { s with
    fsafe :=
      { linkState := .active
        tsValid := true
        lastTs := now
        fresh := true
        servoAngle := mix s.params p.axisX p.axisY }
    out := { s.out with servoUpd := true } }

/-- POLL.FORCE, the entry to Failsafe: `link_state` and every angle, nothing else; `servo_upd` is pulsed (R164, R189). -/
def State.enterFailsafe (s : State) : State :=
  { s with
    fsafe :=
      { s.fsafe with linkState := .failsafe, servoAngle := neutralAngles s.params.nch }
    out := { s.out with servoUpd := true } }

/-- POLL.FRESH: the packet of this poll cycle is accounted for (R164). -/
def State.clearFresh (s : State) : State := { s with fsafe := { s.fsafe with fresh := false } }

/-- The failsafe check at the end of a poll cycle: POLL.FRESH, POLL.FORCE or POLL.HOLD (R164). -/
def State.pollCheck (s : State) (now : Time) : State :=
  if s.fsafe.fresh then s.clearFresh
  else if s.fsafe.expired now then s.enterFailsafe
  else s

/-! ### Reset -/

/-- The FSYNC part of RESET (R210). -/
def State.resetFsync (s : State) : State := { s with fsync := Fsync.reset }

/-- The FSAFE part of RESET (R210). `last_ts` is left with no value: a free value, taken from the counter (log 4). -/
def State.resetFsafe (s : State) : State :=
  { s with
    fsafe := Fsafe.resetWith s.params.nch (Config.unsetTime s.freeCount)
    freeCount := s.freeCount + 1 }

/-- RESET on a line: each instance on its own line, the other untouched (R210). -/
def State.resetOn (s : State) : ResetLine → State
  | .fsync => s.resetFsync
  | .fsafe => s.resetFsafe
  | .both => s.resetFsync.resetFsafe

/-! ### Sampling an event -/

/-- The packet that the event's own operation drives on FSAFE's packet inputs: PLA's unpacked packet in the radio
composition, FSYNC's packet in the direct one (R3, R131). -/
def State.upstream (s : State) : Option ControlPacket :=
  match s.params.link with
  | .radio => s.out.upk
  | .direct => s.out.pkt

/-- What the selection of an operation reads of the state (R79). -/
def State.decodeCtx (s : State) : DecodeCtx where
  inFrame := s.fsync.inFrame
  fill := s.fsync.fill

/-- The next presented event, and the state with that event consumed (R57, R63); none when the environment presents
nothing. -/
def State.sample (s : State) : Option (Event × State) :=
  match s.input with
  | [] => none
  | e :: rest => some (e, { s with input := rest })

/-- FSAFE's operation in the cycle of an event whose own operation has just been performed: FSAFE samples every cycle of the
unit that drives its packet inputs, with that unit's packet on them, so no packet is lost between the two (R3, R64, R67,
R131, R136, R160, R188e). -/
def State.delivery (s : State) (e : Event) : Option Instr :=
  (e.linkedInputs s.params.link).map (decodeLinked s.upstream)

/-- The state after FSAFE's operation of a cycle, with what the event's own operation drove in that cycle (R32 to R34). -/
def State.withOutputsOf (s t : State) : State :=
  { s with out := { t.out with servoUpd := s.out.servoUpd } }

/-- The state with an event presented next. -/
def State.present (s : State) (e : Event) : State := { s with input := e :: s.input }

end Sys2Proof.Machine
end

