-- ==== Sys2Proof/Machine/AxisMap.lean ====
section
/-! DEFINITION. AxisMap.lean: AXMAP's operations presented alone (43_axis_mapper.md R140, R143, R145): combinational, no
state read but the parameters, none written. -/

namespace Sys2Proof.Machine

/-- AX.MAP (R140). -/
def execAxMap (raw : AxisWord) (s : State) : Host.Outcome State Fault Refusal :=
  .next (s.quiet.driveFn (.angle (mapAxis s.params.travel raw)))

/-- AX.MIRROR (R143). -/
def execAxMirror (angle : Byte) (s : State) : Host.Outcome State Fault Refusal :=
  .next (s.quiet.driveFn (.mirrored (mirror angle)))

/-- AX.MIX (R145). -/
def execAxMix (axisX axisY : AxisWord) (s : State) : Host.Outcome State Fault Refusal :=
  .next (s.quiet.driveFn (.channels (mix s.params axisX axisY)))

end Sys2Proof.Machine
end

