-- ==== Sys2Proof/Machine/Failsafe.lean ====
section
/-! DEFINITION. Failsafe.lean: FSAFE's operations (44_failsafe.md R162 to R165). -/

namespace Sys2Proof.Machine

/-- FSF.IDLE: nothing changes, whatever `now` is (R162). -/
def execFsfIdle (s : State) : Host.Outcome State Fault Refusal := .next s.quiet

/-- FSF.PKT: a valid packet arrives; its button is ignored (R163, R146). -/
def execFsfPkt (pkt : ControlPacket) (now : Time) (s : State) : Host.Outcome State Fault Refusal :=
  .next (s.quiet.acceptPacket pkt now)

/-- FSF.POLL: the failsafe check (R164). -/
def execFsfPoll (now : Time) (s : State) : Host.Outcome State Fault Refusal :=
  .next (s.quiet.pollCheck now)

/-- FSF.PKTPOLL: FSF.PKT followed by FSF.POLL with the same `now` (R165). -/
def execFsfPktPoll (pkt : ControlPacket) (now : Time) (s : State) :
    Host.Outcome State Fault Refusal :=
  .next ((s.quiet.acceptPacket pkt now).pollCheck now)

end Sys2Proof.Machine
end

