-- ==== Sys2Proof/Machine/FrameSync.lean ====
section
/-! DEFINITION. FrameSync.lean: FSYNC's operations (41_frame_sync.md R111 to R115). -/

namespace Sys2Proof.Machine

/-- FS.IDLE: no byte available, nothing changes (R111). -/
def execFsIdle (s : State) : Host.Outcome State Fault Refusal := .next s.quiet

/-- FS.SOF: open a frame (R113). -/
def execFsSof (s : State) : Host.Outcome State Fault Refusal := .next s.quiet.openFrame

/-- FS.SKIP: discard a byte while scanning, `fs_diag = 1` (R112). -/
def execFsSkip (_data : Byte) (s : State) : Host.Outcome State Fault Refusal :=
  .next (s.quiet.raiseFs .skip)

/-- FS.APPEND: store a frame byte (R114); the sentinel's value is data here (R116). -/
def execFsAppend (data : Byte) (s : State) : Host.Outcome State Fault Refusal :=
  .next (s.quiet.storeByte data)

/-- FS.CLOSE: compare the checksum of `buf[1..5]` with the seventh byte, emit the packet or raise BADSUM, and close the
frame either way (R115). -/
def execFsClose (data : Byte) (s : State) : Host.Outcome State Fault Refusal :=
  if chk (dataBytes s.freeCount s.fsync.buf) = data then
    .next (s.quiet.emitPacket (bufPacket s.freeCount s.fsync.buf)).closeFrame
  else .next (s.quiet.raiseFs .badSum).closeFrame

end Sys2Proof.Machine
end

