-- ==== Sys2Proof/Machine/RadioPayload.lean ====
section
/-! DEFINITION. RadioPayload.lean: PLA's operations (42_radio_payload.md R130 to R133). PLA holds no state. -/

namespace Sys2Proof.Machine

/-- PL.PACK: serialise a packet presented to the pack half (R130). -/
def execPlPack (pkt : ControlPacket) (s : State) : Host.Outcome State Fault Refusal :=
  .next (s.quiet.driveTx pkt)

/-- PL.IDLE: no payload available (R133). -/
def execPlIdle (s : State) : Host.Outcome State Fault Refusal := .next s.quiet

/-- PL.UNPACK: deserialise a five-byte payload, with no check of its content (R131, R137). -/
def execPlUnpack (data : BitVec 40) (s : State) : Host.Outcome State Fault Refusal :=
  .next (s.quiet.emitUnpacked (payloadDecode data))

/-- PL.DRAIN: consume and discard a payload of another length, `pl_diag = 3` (R132). -/
def execPlDrain (_len : Byte) (s : State) : Host.Outcome State Fault Refusal :=
  .next (s.quiet.raisePl .badLen)

end Sys2Proof.Machine
end

