-- ==== Sys2Proof/Machine/System.lean ====
section
/-! DEFINITION. System.lean: RESET (70_reset_and_hazards.md R210), CHK presented alone (40_checksum.md R100) and the two
data formats (30_encoding.md R70 to R75). -/

namespace Sys2Proof.Machine

/-- RESET on a line; every output of the cycle is idle, `servo_upd` too (R210). -/
def execReset (line : ResetLine) (s : State) : Host.Outcome State Fault Refusal :=
  .next (s.quiet.resetOn line)

/-- CHK of a span (R100). -/
def execChk (span : List Byte) (s : State) : Host.Outcome State Fault Refusal :=
  .next (s.quiet.driveFn (.sum (chk span)))

/-- FRAME: the seven bytes read as the layout, `frameDecode` and validity; a layout writes no state (R71, R75, R83; DESIGN
CHOICE, log 11). -/
def execFrame (bytes : BitVec 56) (s : State) : Host.Outcome State Fault Refusal :=
  .next (s.quiet.driveFn (.framePacket (frameDecode bytes) (validFrame bytes)))

/-- PAYLOAD: the five bytes read as the layout, `payloadDecode`; a layout writes no state (R73, R83; DESIGN CHOICE,
log 11). -/
def execPayload (bytes : BitVec 40) (s : State) : Host.Outcome State Fault Refusal :=
  .next (s.quiet.driveFn (.payloadPacket (payloadDecode bytes)))

end Sys2Proof.Machine
end

