-- ==== Sys2Proof/Machine/Dispatch.lean ====
section
/-! DEFINITION. Dispatch.lean: one arm per operation, each one direct call of its meaning. -/

namespace Sys2Proof.Machine

def exec (i : Instr) (s : State) : Host.Outcome State Fault Refusal :=
  match i with
  | .fsIdle => Sys2Proof.Machine.execFsIdle s
  | .fsSof => Sys2Proof.Machine.execFsSof s
  | .fsSkip data => Sys2Proof.Machine.execFsSkip data s
  | .fsAppend data => Sys2Proof.Machine.execFsAppend data s
  | .fsClose data => Sys2Proof.Machine.execFsClose data s
  | .plIdle => Sys2Proof.Machine.execPlIdle s
  | .plUnpack data => Sys2Proof.Machine.execPlUnpack data s
  | .plDrain len => Sys2Proof.Machine.execPlDrain len s
  | .fsfIdle => Sys2Proof.Machine.execFsfIdle s
  | .fsfPkt pkt now => Sys2Proof.Machine.execFsfPkt pkt now s
  | .fsfPoll now => Sys2Proof.Machine.execFsfPoll now s
  | .fsfPktPoll pkt now => Sys2Proof.Machine.execFsfPktPoll pkt now s
  | .reset line => Sys2Proof.Machine.execReset line s
  | .chk span => Sys2Proof.Machine.execChk span s
  | .plPack pkt => Sys2Proof.Machine.execPlPack pkt s
  | .axMap raw => Sys2Proof.Machine.execAxMap raw s
  | .axMirror angle => Sys2Proof.Machine.execAxMirror angle s
  | .axMix axisX axisY => Sys2Proof.Machine.execAxMix axisX axisY s
  | .frame bytes => Sys2Proof.Machine.execFrame bytes s
  | .payload bytes => Sys2Proof.Machine.execPayload bytes s

end Sys2Proof.Machine
end

