-- ==== Sys2Proof/Machine/Cycle.lean ====
section
/-! DEFINITION. Cycle.lean: what follows an event's own operation in the same clock cycle (00_scope.md R3, 20_memory.md R64,
42_radio_payload.md R131, 60_exceptions.md R188). -/

namespace Sys2Proof.Machine

/-- The rest of an event's cycle: FSAFE's operation where the composition has it sample that cycle (R64, R131, R188e;
log 7). -/
def finishCycle (e : Event) (o : Host.Outcome State Fault Refusal) : Host.Outcome State Fault Refusal :=
  match o with
  | .next t =>
    match t.delivery e with
    | none => .next t
    | some i =>
      match exec i t with
      | .next u => .next (u.withOutputsOf t)
      | .fault f => .fault f
      | .refused r => .refused r
  | .fault f => .fault f
  | .refused r => .refused r

end Sys2Proof.Machine
end

