-- ==== Sys2Proof/Machine/Step.lean ====
section
/-! DEFINITION. Step.lean: one step samples one event and performs the operation it selects, with the rest of its cycle
(00_scope.md R13). -/

namespace Sys2Proof.Machine

/-- One step: the next presented event is consumed and its operation performed, with FSAFE's of the same cycle where the
event's unit drives FSAFE's packet inputs; with nothing presented every strobe is 0 and nothing changes (R13, R63, R111, R133,
R162; log 1, log 2). -/
def step (s : State) : Host.Outcome State Fault Refusal :=
  match s.sample with
  | some (e, t) => finishCycle e (exec (decodeEvent s.decodeCtx e) t)
  | none => .next s.quiet

/-- The state with a table word presented as the next event, on the port that `tableFormat` names (log 16); unchanged where
the bits are no word of a port. FSYNC's state still selects among the operations of an RXW word (R79). -/
def State.withFetchWord (s : State) (nbits w : Nat) : State :=
  match tableEvent nbits w with
  | some e => s.present e
  | none => s

end Sys2Proof.Machine
end

