-- ==== Sys2Proof/Safety.lean ====
section
/-! DEFINITION. Safety.lean: the terms that claims use: the invariants of 10_state.md R24 and R30, runs and what they drive
on the ports, the accepted sentinels of 41_frame_sync.md R118, and the two compositions of 00_scope.md R3. -/

namespace Sys2Proof.Machine

/-! ### Invariants -/

/-- The FSYNC invariants of R24, and that the buffer holds a value exactly below `fill` (R23). -/
structure Fsync.Inv (f : Fsync) : Prop where
  scanning_iff : f.inFrame = false ↔ f.fill = 0
  fill_le : f.fill.toNat ≤ 6
  holds_fill_bytes : f.buf.length = f.fill.toNat
  starts_with_sentinel : f.inFrame = true → f.buf[0]? = some Config.sentinel

/-- The FSAFE invariants of R30 in an instantiation. -/
structure Fsafe.Inv (p : Params) (f : Fsafe) : Prop where
  channels : f.servoAngle.length = p.nch
  bounded : ∀ a ∈ f.servoAngle, a.toNat ≤ 180
  neutral_in_failsafe : f.linkState = .failsafe → ∀ a ∈ f.servoAngle, a = 90#8
  never_packet : f.tsValid = false → f.linkState = .failsafe ∧ f.fresh = false
  fresh_active : f.fresh = true → f.linkState = .active ∧ f.tsValid = true
  mapped_when_active : f.linkState = .active → ∃ x y, f.servoAngle = mix p x y

/-- Both units' invariants. -/
def State.Inv (s : State) : Prop := s.fsync.Inv ∧ s.fsafe.Inv s.params

/-- The output multiplexer with `(x, y)` the axes of the last accepted packet (R166). -/
def Fsafe.MuxHolds (p : Params) (x y : AxisWord) (f : Fsafe) : Prop :=
  f.servoAngle = match f.linkState with
    | .failsafe => List.replicate p.nch 90#8
    | .active => mix p x y

/-- The axes that an operation makes the last accepted ones (R163, R165). -/
def acceptedAxes : Instr → Option (AxisWord × AxisWord)
  | .fsIdle => none
  | .fsSof => none
  | .fsSkip _ => none
  | .fsAppend _ => none
  | .fsClose _ => none
  | .plIdle => none
  | .plUnpack _ => none
  | .plDrain _ => none
  | .fsfIdle => none
  | .fsfPkt pkt _ => some (pkt.axisX, pkt.axisY)
  | .fsfPoll _ => none
  | .fsfPktPoll pkt _ => some (pkt.axisX, pkt.axisY)
  | .reset _ => none
  | .chk _ => none
  | .plPack _ => none
  | .axMap _ => none
  | .axMirror _ => none
  | .axMix _ _ => none
  | .frame _ => none
  | .payload _ => none

/-- The operation of an event that FSAFE performs or sees: its own in the same cycle where the event's unit drives its
packet inputs (`State.delivery`), else the event's, which leaves FSAFE unless it is FSAFE's. -/
def State.fsafeOperation (s : State) (e : Event) : Instr :=
  match exec (decodeEvent s.decodeCtx e) s with
  | .next t => (t.delivery e).getD (decodeEvent s.decodeCtx e)
  | .fault _ => decodeEvent s.decodeCtx e
  | .refused _ => decodeEvent s.decodeCtx e

/-! ### Runs -/

/-- The state after one step. -/
def State.successor (s : State) : State :=
  match step s with
  | .next t => t
  | .fault _ => s
  | .refused _ => s

/-- The state after `n` steps. -/
def State.after : Nat → State → State
  | 0, s => s
  | n + 1, s => State.after n s.successor

/-- What `n` steps show on the ports, first step first: the observation of a run (R13). -/
def State.observe : Nat → State → List Observation
  | 0, _ => []
  | n + 1, s => s.successor.observation :: State.observe n s.successor

/-- The state once the environment has presented the events and nothing else. -/
def State.runEvents (s : State) (es : List Event) : State :=
  State.after es.length { s with input := es }

/-- What the events show on the ports. -/
def State.observeEvents (s : State) (es : List Event) : List Observation :=
  State.observe es.length { s with input := es }

/-- Whether FSAFE accepts a packet in some event of a run. -/
def State.acceptsAlong : State → List Event → Bool
  | _, [] => false
  | s, e :: es => (acceptedAxes (s.fsafeOperation e)).isSome || State.acceptsAlong (s.runEvents [e]) es

/-- Whether an event polls FSAFE or resets it, in a composition. -/
def pollsOrResetsFsafe (link : Link) : Event → Bool
  | .rx _ _ inputs => link == .direct && (inputs.rst || inputs.poll)
  | .pl _ inputs => link == .radio && (inputs.rst || inputs.poll)
  | .ctl rst w => rst || ctlPoll w
  | .resetPulse line => line != .fsync
  | .chk5 _ => false
  | .cp _ => false
  | .ax _ => false
  | .ang _ => false
  | .xy _ => false
  | .frame56 _ => false
  | .payload40 _ => false

/-! ### Streams of bytes -/

/-- RXW with a byte presented (R76, `RXB` of R88). -/
def rxByte (b : Byte) : BitVec 9 := 1#1 ++ b

/-- The bytes presented by RXW words, FS.IDLE cycles removed (R118). -/
def presentedBytes (ws : List (BitVec 9)) : List Byte := (ws.filter rxValid).map rxData

/-- What the events that present a byte show. -/
def shownAtBytes (ws : List (BitVec 9)) (shown : List Observation) : List Observation :=
  ((ws.zip shown).filter fun x => rxValid x.1).map Prod.snd

/-- The packet that an event shows, if any. -/
def Observation.packet (o : Observation) : Option ControlPacket := o.out.pkt

/-- The accepted sentinel positions of a stream from position `i` on, `skip` more bytes belonging to the window of the
one before: the least position holding a sentinel, then the least at or after seven positions further, and so on (R118). -/
def acceptedSentinels (skip i : Nat) : List Byte → List Nat
  | [] => []
  | b :: rest =>
    match skip with
    | n + 1 => acceptedSentinels n (i + 1) rest
    | 0 =>
      if b = Config.sentinel then i :: acceptedSentinels (Config.frameLen - 1) (i + 1) rest
      else acceptedSentinels 0 (i + 1) rest

/-- The seven bytes from position `i` as one word (R9, R70). -/
def windowAt (bytes : List Byte) (i : Nat) : BitVec 56 :=
  BitVec.ofNat 56 (leNat ((bytes.drop i).take Config.frameLen))

/-! ### The two compositions -/

/-- The machine with its units wired in the given composition (R3). -/
def State.linkAs (s : State) (l : Link) : State := { s with params := { s.params with link := l } }

/-- The inputs of one cycle of the whole link: RXW of FSYNC, and what FSAFE samples beside its packet inputs. -/
structure LinkCycle where
  rxw : BitVec 9
  fsafe : FsafeInputs
deriving DecidableEq, Repr

/-- FSYNC's event of a cycle, with no reset of FSYNC. -/
def LinkCycle.event (c : LinkCycle) : Event := .rx false c.rxw c.fsafe

/-- Whether FSAFE samples the same, with the wire carrying a packet or none, but for the bits that R86 lists as ignored:
`poll` and `now` beside `rst = 1` (R82), `now` in FSF.IDLE. -/
def sameSample (packet : Bool) (i j : FsafeInputs) : Prop :=
  i.rst = j.rst ∧ (i.rst = false → i.poll = j.poll ∧ (packet = true ∨ i.poll = true → i.now = j.now))

/-- One cycle of the direct composition: one event, FSYNC and FSAFE on FSYNC's packet output (R3, R188e). -/
def State.directCycle (s : State) (c : LinkCycle) : State := s.runEvents [c.event]

/-- What a loss-free transport presents to PLA's unpack half: the payload just sent, if any (R3, R134). -/
def deliveredWord (tx : Option (BitVec 40)) : BitVec 49 :=
  match tx with
  | some payload => 1#1 ++ Config.payloadLen ++ payload
  | none => 0

/-- One cycle of the radio composition with a loss-free transport: FSYNC with the pack half, then the unpack half on what
was sent, with FSAFE on the unpacked packet (R3, R131, R134). -/
def State.radioCycle (s : State) (c : LinkCycle) : State :=
  let sent := s.runEvents [c.event]
  sent.runEvents [.pl (deliveredWord sent.out.tx) c.fsafe]

end Sys2Proof.Machine
end

