-- ==== Sys2Proof/Certificates/Slice0/Obligations.lean ====
section
/-! DEFINITION. Obligations.lean: the statements for the provers. A conclusion `exec i s = .next { s with … }` is at once the
result, the frame (every field not named is as in `s`) and the completion of the operation. -/

open Sys2Proof Sys2Proof.Machine

/-! ### FSYNC -/

/-- R111, R133, R162: FS.IDLE, PL.IDLE and FSF.IDLE change no state, at any time, and drive no output. -/
def Obligations.IdleOperationsChangeNothing : Prop :=
  ∀ s : State, ∀ i ∈ [Instr.fsIdle, Instr.plIdle, Instr.fsfIdle],
    exec i s = .next { s with out := Outputs.idle }

/-- R112, R182: FS.SKIP discards the byte, whatever it is: no state changes, `fs_diag` is 1, no packet. -/
def Obligations.SkipOnlyRaisesDiagnosticOne : Prop :=
  ∀ (s : State) (b : Byte),
    exec (.fsSkip b) s = .next { s with out := { Outputs.idle with fsDiag := .skip } } ∧
    Diag.skip.code = 1

/-- R113: FS.SOF empties the buffer, stores the sentinel at index 0 and goes to `(1, 1)`, with no output. -/
def Obligations.StartOfFrameStoresSentinel : Prop :=
  ∀ s : State,
    exec .fsSof s =
      .next { s with fsync := { inFrame := true, fill := 1, buf := [0xAA] }, out := Outputs.idle }

/-- R114, R116: in a frame with one to five bytes held, FS.APPEND stores the byte, of any value, at index `fill` and
advances `fill` by one, with no output. -/
def Obligations.AppendStoresByteAtFill : Prop :=
  ∀ (s : State) (b : Byte),
    s.fsync.inFrame = true → 1 ≤ s.fsync.fill.toNat → s.fsync.fill.toNat ≤ 5 →
    s.fsync.buf.length = s.fsync.fill.toNat →
    ∃ f : Fsync,
      exec (.fsAppend b) s = .next { s with fsync := f, out := Outputs.idle } ∧
      f.inFrame = true ∧ f.fill.toNat = s.fsync.fill.toNat + 1 ∧
      f.buf.length = f.fill.toNat ∧ f.buf[s.fsync.fill.toNat]? = some b ∧
      ∀ k < s.fsync.fill.toNat, f.buf[k]? = s.fsync.buf[k]?

/-- R115: with six bytes held, FS.CLOSE compares the sum of bytes 1 to 5 modulo 256 with the seventh byte. On a match it
emits the packet of the little-endian fields, which the pack half of PLA sends in the same event in the radio composition
(R33, R135; the model's log 9); on a mismatch it raises code 2 and emits nothing. Either way FSYNC is left not-in-frame
with an empty buffer. `freeCount` is the model's own field (log 5). -/
def Obligations.CloseValidatesThenLeavesFrame : Prop :=
  ∀ (s : State) (b0 b1 b2 b3 b4 b5 c : Byte), s.fsync.buf = [b0, b1, b2, b3, b4, b5] →
    ((b1.toNat + b2.toNat + b3.toNat + b4.toNat + b5.toNat) % 256 = c.toNat →
      exec (.fsClose c) s =
        .next { s with
          fsync := { inFrame := false, fill := 0, buf := [] }
          freeCount := s.freeCount + 1
          out := { Outputs.idle with
            pkt := some { axisX := b2 ++ b1, axisY := b4 ++ b3, button := b5 }
            tx := match s.params.link with
              | .radio => some (b5 ++ b4 ++ b3 ++ b2 ++ b1)
              | .direct => none } }) ∧
    ((b1.toNat + b2.toNat + b3.toNat + b4.toNat + b5.toNat) % 256 ≠ c.toNat →
      exec (.fsClose c) s =
        .next { s with
          fsync := { inFrame := false, fill := 0, buf := [] }
          freeCount := s.freeCount + 1
          out := { Outputs.idle with fsDiag := .badSum } } ∧
      Diag.badSum.code = 2)

/-- R110, R160: which operation FSYNC and FSAFE perform in a step, from `rst`, the strobes of the word sampled and FSYNC's
state. Of FSYNC's step it says FSYNC's state and every output that FSYNC and PLA drive; StepRunsSelectedOperation says the
rest. -/
def Obligations.StepDispatchesOnStrobesAndState : Prop :=
  (∀ (s : State) (rst : Bool) (w : BitVec 9) (inputs : FsafeInputs) (rest : List Event),
    s.input = .rx rst w inputs :: rest →
    ∃ t u, exec
      (if rst = true then .reset .fsync
       else if rxValid w = false then .fsIdle
       else if s.fsync.inFrame = false ∧ rxData w = 0xAA then .fsSof
       else if s.fsync.inFrame = false then .fsSkip (rxData w)
       else if s.fsync.fill.toNat ≤ 5 then .fsAppend (rxData w)
       else .fsClose (rxData w)) { s with input := rest } = .next t ∧
    step s = .next u ∧ u.fsync = t.fsync ∧ u.out = { t.out with servoUpd := u.out.servoUpd } ∧ u.input = rest) ∧
  (∀ (s : State) (rst : Bool) (w : BitVec 74) (rest : List Event), s.input = .ctl rst w :: rest →
    step s = exec
      (if rst = true then .reset .fsafe
       else if ctlPktValid w = false ∧ ctlPoll w = false then .fsfIdle
       else if ctlPktValid w = true ∧ ctlPoll w = false then .fsfPkt (ctlPacket w) (ctlNow w)
       else if ctlPktValid w = false ∧ ctlPoll w = true then .fsfPoll (ctlNow w)
       else .fsfPktPoll (ctlPacket w) (ctlNow w)) { s with input := rest })

/-- R118: from reset, FSYNC emits a packet exactly at the events that consume the seventh byte of a window that starts at
an accepted sentinel and is a valid frame, and the packet is that window decoded. FS.IDLE cycles are removed, and emit
nothing. It holds in both compositions, whatever FSAFE samples. -/
def Obligations.StreamEmitsExactlyAcceptedValidFrames : Prop :=
  ∀ (p : Params) (cycles : List LinkCycle),
    let ws := cycles.map LinkCycle.rxw
    let shown := (State.resetWith p).observeEvents (cycles.map LinkCycle.event)
    let bytes := presentedBytes ws
    (shownAtBytes ws shown).length = bytes.length ∧
    (∀ (j : Nat) (q : ControlPacket),
      ((shownAtBytes ws shown)[j]?.bind Observation.packet = some q ↔
        ∃ k ∈ acceptedSentinels 0 0 bytes,
          j = k + 6 ∧ j < bytes.length ∧ validFrame (windowAt bytes k) = true ∧
          frameDecode (windowAt bytes k) = q)) ∧
    ∀ x ∈ ws.zip shown, rxValid x.1 = false → x.2.packet = none

/-- R215(c): from any FSYNC state that its invariants allow, six bytes none of which is 0xAA and then the seven bytes of a
frame: the frame's packet is emitted at its last byte, and FSYNC is scanning again, whatever FSAFE samples. -/
def Obligations.SixPlainBytesGuaranteeRecognition : Prop :=
  ∀ (s : State) (gap : List Byte) (q : ControlPacket) (inputs : List FsafeInputs),
    s.fsync.Inv → gap.length = 6 → (∀ b ∈ gap, b ≠ 0xAA) → inputs.length = 13 →
    let es := List.zipWith (fun b i => Event.rx false (rxByte b) i) (gap ++ frameEncode q) inputs
    (s.observeEvents es).getLast?.bind Observation.packet = some q ∧
    (s.runEvents es).fsync = { inFrame := false, fill := 0, buf := [] }

/-- R24: the FSYNC invariants hold after reset and after every event. -/
def Obligations.FsyncInvariantsHoldAlways : Prop :=
  (∀ p : Params, (State.resetWith p).fsync.Inv) ∧
  ∀ s t : State, s.fsync.Inv → step s = .next t → t.fsync.Inv

/-- R103: a valid frame in which one byte among bytes 1 to 6 is changed, to any other value, is not valid. -/
def Obligations.SingleByteErrorIsDetected : Prop :=
  ∀ (f g : BitVec 56) (k : Nat), 1 ≤ k → k ≤ 6 →
    (∀ j, j ≤ 6 → j ≠ k → byteAt g j = byteAt f j) → byteAt g k ≠ byteAt f k →
    validFrame f = true → validFrame g = false

/-- R103(a): frames with one sentinel byte and one checksum byte whose data bytes are the same in another order are both valid
or both not. -/
def Obligations.ReorderedDataBytesAreNotDetected : Prop :=
  ∀ f g : BitVec 56, byteAt f 0 = byteAt g 0 → byteAt f 6 = byteAt g 6 →
    [byteAt f 1, byteAt f 2, byteAt f 3, byteAt f 4, byteAt f 5].Perm
      [byteAt g 1, byteAt g 2, byteAt g 3, byteAt g 4, byteAt g 5] →
    validFrame f = validFrame g

/-- R74, R71, R75: the reference encoder's frame of a packet is valid and decodes to the packet. -/
def Obligations.EncodedFrameIsValidAndDecodesBack : Prop :=
  ∀ (q : ControlPacket) (f : BitVec 56), f.toNat = leNat (frameEncode q) →
    (frameEncode q).length = 7 ∧ validFrame f = true ∧ frameDecode f = q

/-! ### CHK -/

/-- R100: CHK of a span of any length is the sum of its unsigned bytes modulo 256; it writes no state. -/
def Obligations.ChecksumIsSumModulo256 : Prop :=
  ∀ (s : State) (span : List Byte),
    ∃ c : Byte,
      exec (.chk span) s = .next { s with out := { Outputs.idle with fn := some (.sum c) } } ∧
      c.toNat = (span.map BitVec.toNat).sum % 256

/-- R102: CHK gives one result for every order of the same bytes. -/
def Obligations.ChecksumIgnoresByteOrder : Prop :=
  ∀ a b : List Byte, a.Perm b → chk a = chk b

/-! ### PLA and the two data formats -/

/-- R130, R72: PL.PACK sends axisX in bits 15:0, axisY in bits 31:16 and the button in bits 39:32; it writes no state. -/
def Obligations.PackLaysOutPayload : Prop :=
  ∀ (s : State) (q : ControlPacket),
    ∃ w : BitVec 40,
      exec (.plPack q) s = .next { s with out := { Outputs.idle with tx := some w } } ∧
      w.extractLsb' 0 16 = q.axisX ∧ w.extractLsb' 16 16 = q.axisY ∧ w.extractLsb' 32 8 = q.button

/-- R131, R72: PL.UNPACK emits the packet of any five bytes, unchecked; it writes no state. -/
def Obligations.UnpackReadsPayload : Prop :=
  ∀ (s : State) (w : BitVec 40),
    exec (.plUnpack w) s =
      .next { s with out := { Outputs.idle with
        upk := some
          { axisX := w.extractLsb' 0 16, axisY := w.extractLsb' 16 16, button := w.extractLsb' 32 8 } } }

/-- R132, R184: PL.DRAIN produces no packet, raises code 3 and writes no state, at every length. -/
def Obligations.DrainOnlyRaisesDiagnosticThree : Prop :=
  ∀ (s : State) (len : Byte),
    exec (.plDrain len) s = .next { s with out := { Outputs.idle with plDiag := .badLen } } ∧
    Diag.badLen.code = 3

/-- R134: what PL.PACK sends, PL.UNPACK reads back as the same packet, and what PL.UNPACK reads, PL.PACK sends back as the
same five bytes. -/
def Obligations.PackAndUnpackAreInverse : Prop :=
  (∀ (s t : State) (q : ControlPacket), exec (.plPack q) s = .next t →
    ∃ w u, t.out.tx = some w ∧ exec (.plUnpack w) t = .next u ∧ u.out.upk = some q) ∧
  ∀ (s t : State) (w : BitVec 40), exec (.plUnpack w) s = .next t →
    ∃ q u, t.out.upk = some q ∧ exec (.plPack q) t = .next u ∧ u.out.tx = some w

/-- R71, R75, as the model's meaning of the data format FRAME (log 11): the layout's fields, and validity. -/
def Obligations.FrameLayoutDecodesAndValidates : Prop :=
  ∀ (s : State) (f : BitVec 56),
    ∃ valid : Bool,
      exec (.frame f) s =
        .next { s with out := { Outputs.idle with
          fn := some (.framePacket
            { axisX := f.extractLsb' 8 16, axisY := f.extractLsb' 24 16, button := f.extractLsb' 40 8 }
            valid) } } ∧
      (valid = true ↔
        f.extractLsb' 0 8 = 0xAA ∧
        ((f.extractLsb' 8 8).toNat + (f.extractLsb' 16 8).toNat + (f.extractLsb' 24 8).toNat +
          (f.extractLsb' 32 8).toNat + (f.extractLsb' 40 8).toNat) % 256 = (f.extractLsb' 48 8).toNat)

/-- R73, R72, as the model's meaning of the data format PAYLOAD (log 11). -/
def Obligations.PayloadLayoutDecodes : Prop :=
  ∀ (s : State) (w : BitVec 40),
    exec (.payload w) s =
      .next { s with out := { Outputs.idle with
        fn := some (.payloadPacket
          { axisX := w.extractLsb' 0 16, axisY := w.extractLsb' 16 16, button := w.extractLsb' 32 8 }) } }

/-! ### AXMAP -/

/-- R140: AX.MAP's integer rule, for every raw value and every TRAVEL; it writes no state. -/
def Obligations.AxisMapFollowsIntegerRule : Prop :=
  ∀ (s : State) (raw : AxisWord),
    ∃ a : Byte,
      exec (.axMap raw) s = .next { s with out := { Outputs.idle with fn := some (.angle a) } } ∧
      (a.toNat : Int) =
        max 0 (min 180
          (90 + Int.tdiv (max (-32767) (min 32767 raw.toInt) * (s.params.travel.val : Int)) 32767))

/-- R142: AX.MAP at 0, at the extremes, its monotonicity, its point symmetry and its range. -/
def Obligations.AxisMapPropertiesHold : Prop :=
  ∀ travel : Nat, travel ≤ 255 →
    (mapAxis travel 0).toNat = 90 ∧
    (mapAxis travel 0x7FFF).toNat = min 180 (90 + travel) ∧
    (mapAxis travel 0x8001).toNat = 90 - travel ∧
    (mapAxis travel 0x8000).toNat = 90 - travel ∧
    (∀ r₁ r₂ : AxisWord, r₁.toInt ≤ r₂.toInt → (mapAxis travel r₁).toNat ≤ (mapAxis travel r₂).toNat) ∧
    (∀ r : AxisWord, r ≠ 0x8000 → (mapAxis travel (-r)).toNat = 180 - (mapAxis travel r).toNat) ∧
    ∀ r : AxisWord, 90 - travel ≤ (mapAxis travel r).toNat ∧ (mapAxis travel r).toNat ≤ min 180 (90 + travel)

/-- R141: the delta is the exact quotient rounded toward zero: less than one degree from it, and never beyond it. -/
def Obligations.AxisDeltaRoundsTowardCenter : Prop :=
  ∀ (travel : Nat) (raw : AxisWord),
    let exact : Int := max (-32767) (min 32767 raw.toInt) * travel
    (axisDelta travel raw * 32767 - exact).natAbs < 32767 ∧
    (axisDelta travel raw * 32767).natAbs ≤ exact.natAbs ∧
    (32767 ∣ exact → axisDelta travel raw * 32767 = exact)

/-- R144: mirroring the twin's angle gives the same as mirroring its centre value before the clamp. -/
def Obligations.MirrorBeforeAndAfterClampAgree : Prop :=
  ∀ v : Int, mirror (angleOf v) = angleOf (180 - v)

/-- R143: AX.MIRROR gives the complement of an angle up to 180 and 0 above, and is its own inverse on angles; it writes no
state. -/
def Obligations.MirrorIsComplement : Prop :=
  (∀ (s : State) (a : Byte),
    ∃ m : Byte,
      exec (.axMirror a) s = .next { s with out := { Outputs.idle with fn := some (.mirrored m) } } ∧
      (a.toNat ≤ 180 → m.toNat + a.toNat = 180) ∧ (180 < a.toNat → m = 0)) ∧
  ∀ a : Byte, a.toNat ≤ 180 → mirror (mirror a) = a

/-- R145: AX.MIX gives every channel the angle of its axis, or that angle's complement where the channel is mirrored; it
writes no state. -/
def Obligations.MixGivesEachChannelItsAxis : Prop :=
  ∀ (s : State) (x y : AxisWord),
    ∃ angles : List Byte,
      exec (.axMix x y) s = .next { s with out := { Outputs.idle with fn := some (.channels angles) } } ∧
      angles.length = s.params.nch ∧
      ∀ (c : Nat) (cfg : Channel), s.params.chcfg[c]? = some cfg →
        ∃ a : Byte, angles[c]? = some a ∧
          a.toNat =
            (let primary := (mapAxis s.params.travel (if cfg.axis = .x then x else y)).toNat
             if cfg.mirror then 180 - primary else primary)

/-! ### FSAFE -/

/-- R163: FSF.PKT from any state: timestamp, Active, fresh, every channel at its mapped angle, one `servo_upd` pulse, and the
pin `failsafe` 0. -/
def Obligations.PacketMakesActiveAndLoadsAngles : Prop :=
  ∀ (s : State) (q : ControlPacket) (now : Time),
    ∃ t : State,
      exec (.fsfPkt q now) s = .next t ∧
      t = { s with
        fsafe :=
          { linkState := .active, tsValid := true, lastTs := now, fresh := true
            servoAngle := mix s.params q.axisX q.axisY }
        out := { Outputs.idle with servoUpd := true } } ∧
      t.failsafePin = false

/-- R164, R161: FSF.POLL is POLL.FRESH after a packet of this poll cycle, else POLL.FORCE when no packet ever came or
strictly more than 800 ms passed modulo 2^32, else POLL.HOLD. -/
def Obligations.PollIsFreshForceOrHold : Prop :=
  ∀ (s : State) (now : Time),
    (s.fsafe.fresh = true →
      exec (.fsfPoll now) s =
        .next { s with fsafe := { s.fsafe with fresh := false }, out := Outputs.idle }) ∧
    (s.fsafe.fresh = false →
      (s.fsafe.tsValid = false ∨ 800 < (now.toNat + 2 ^ 32 - s.fsafe.lastTs.toNat) % 2 ^ 32) →
      ∃ t : State,
        exec (.fsfPoll now) s = .next t ∧
        t = { s with
          fsafe :=
            { s.fsafe with
              linkState := .failsafe, servoAngle := List.replicate s.params.nch 90#8 }
          out := { Outputs.idle with servoUpd := true } } ∧
        t.failsafePin = true) ∧
    (s.fsafe.fresh = false → s.fsafe.tsValid = true →
      (now.toNat + 2 ^ 32 - s.fsafe.lastTs.toNat) % 2 ^ 32 ≤ 800 →
      exec (.fsfPoll now) s = .next { s with out := Outputs.idle })

/-- R165: FSF.PKTPOLL is FSF.PKT followed by FSF.POLL with the same `now`, with one `servo_upd` pulse. -/
def Obligations.PacketWithPollIsPacketThenPoll : Prop :=
  ∀ (s : State) (q : ControlPacket) (now : Time),
    ∃ t : State,
      exec (.fsfPktPoll q now) s = .next t ∧
      t = { s with
        fsafe :=
          { linkState := .active, tsValid := true, lastTs := now, fresh := false
            servoAngle := mix s.params q.axisX q.axisY }
        out := { Outputs.idle with servoUpd := true } } ∧
      t.failsafePin = false ∧
      ∃ u v, exec (.fsfPkt q now) s = .next u ∧ exec (.fsfPoll now) u = .next v ∧ v.fsafe = t.fsafe

/-- R167: a POLL.FORCE right after a POLL.FORCE, wherever it is expired again, leaves the whole state as it is and pulses
`servo_upd` again. -/
def Obligations.ForcingIsIdempotentAndRepeated : Prop :=
  ∀ (s t : State) (now later : Time),
    s.fsafe.fresh = false → s.fsafe.expired now = true → exec (.fsfPoll now) s = .next t →
    t.fsafe.expired later = true →
    exec (.fsfPoll later) t = .next t ∧ t.out.servoUpd = true

/-- R168: with the last packet accepted at `T` and none since, also across the wrap of the clock: a poll at `T + 799` and at
`T + 800` holds, and a poll at `T + 801` forces. -/
def Obligations.TimeoutBoundaryIsStrict : Prop :=
  ∀ s : State, s.fsafe.tsValid = true → s.fsafe.fresh = false →
    exec (.fsfPoll (s.fsafe.lastTs + 799)) s = .next { s with out := Outputs.idle } ∧
    exec (.fsfPoll (s.fsafe.lastTs + 800)) s = .next { s with out := Outputs.idle } ∧
    exec (.fsfPoll (s.fsafe.lastTs + 801)) s =
      .next { s with
        fsafe :=
          { s.fsafe with linkState := .failsafe, servoAngle := List.replicate s.params.nch 90#8 }
        out := { Outputs.idle with servoUpd := true } }

/-- R172: with a monotonic clock and less than 2^32 ms since the last accepted packet, a bare poll forces exactly when the
true elapsed time exceeds 800 ms. -/
def Obligations.MonotonicClockGivesTrueElapsedTime : Prop :=
  ∀ (s t : State) (accepted now : Nat),
    accepted ≤ now → now - accepted < 2 ^ 32 →
    s.fsafe.tsValid = true → s.fsafe.fresh = false → s.fsafe.lastTs = BitVec.ofNat 32 accepted →
    exec (.fsfPoll (BitVec.ofNat 32 now)) s = .next t →
    (t.out.servoUpd = true ↔ 800 < now - accepted) ∧
    (800 < now - accepted → t.fsafe.linkState = .failsafe) ∧
    (now - accepted ≤ 800 → t.fsafe = s.fsafe)

/-- R169, R136: packet events, at least one, and then a poll, at any times: the poll cycle ends Active with the last packet's
angles and timestamp, and `fresh` clear. -/
def Obligations.PollCycleEndsWithLastPacket : Prop :=
  ∀ (s : State) (earlier : List (ControlPacket × Time)) (last : ControlPacket × Time) (pollTime : Time),
    (s.runEvents
      (((earlier ++ [last]).map fun x => Event.ctl false (ctlWord false true x.1 x.2)) ++
        [Event.ctl false (ctlWord true false ⟨0, 0, 0⟩ pollTime)])).fsafe =
      { linkState := .active, tsValid := true, lastTs := last.2, fresh := false
        servoAngle := mix s.params last.1.axisX last.1.axisY }

/-- R30: the FSAFE invariants hold after reset and after every event, in every instantiation. -/
def Obligations.FsafeInvariantsHoldAlways : Prop :=
  (∀ p : Params, (State.resetWith p).fsafe.Inv p) ∧
  ∀ s t : State, s.fsafe.Inv s.params → step s = .next t → t.fsafe.Inv t.params

/-- R166: the output multiplexer over every event: `servo_angle` is 90 everywhere in Failsafe and the mix of the last accepted
axes when Active. It holds after reset for any axes, and every step keeps it, for the axes that its operation accepts if it
accepts any. -/
def Obligations.MultiplexerFollowsLastAcceptedPacket : Prop :=
  (∀ (p : Params) (x y : AxisWord), (State.resetWith p).fsafe.MuxHolds p x y) ∧
  ∀ (s t : State) (e : Event) (rest : List Event) (x y : AxisWord),
    s.input = e :: rest → s.fsafe.MuxHolds s.params x y → step s = .next t →
    let axes := (acceptedAxes (s.fsafeOperation e)).getD (x, y)
    t.fsafe.MuxHolds t.params axes.1 axes.2

/-- R171, R190: an event that takes FSAFE from Failsafe to Active is a packet, and every packet event makes it Active with
the packet's mapped angles. -/
def Obligations.FailsafeIsLeftOnlyByPacket : Prop :=
  ∀ (s t : State) (e : Event) (rest : List Event), s.input = e :: rest → step s = .next t →
    (s.fsafe.linkState = .failsafe → t.fsafe.linkState = .active →
      (acceptedAxes (s.fsafeOperation e)).isSome = true) ∧
    ∀ x y, acceptedAxes (s.fsafeOperation e) = some (x, y) →
      t.fsafe.linkState = .active ∧ t.fsafe.servoAngle = mix s.params x y

/-- R189, R186: an event that takes FSAFE from Active to Failsafe is a poll with no fresh packet and the timeout expired, or
a RESET of FSAFE; the poll writes `link_state` and the angles and nothing else of FSAFE. -/
def Obligations.FailsafeIsEnteredOnlyByExpiredPollOrReset : Prop :=
  ∀ (s t : State) (e : Event) (rest : List Event), s.input = e :: rest → step s = .next t →
    s.fsafe.linkState = .active → t.fsafe.linkState = .failsafe →
    (∃ now, s.fsafeOperation e = .fsfPoll now ∧ s.fsafe.fresh = false ∧
      s.fsafe.expired now = true ∧
      t.fsafe = { s.fsafe with
        linkState := .failsafe, servoAngle := List.replicate s.params.nch 90#8 }) ∨
    ∃ line, s.fsafeOperation e = .reset line ∧ line ≠ .fsync

/-- R61, R30(a), R30(b): whatever is presented, every observation of a run from a state that meets FSAFE's invariants shows
`NCH` angles, each in [0, 180], and 90 in every channel while the pin `failsafe` is 1. -/
def Obligations.ObservedAnglesAreLegal : Prop :=
  ∀ (s : State) (es : List Event), s.fsafe.Inv s.params → ∀ o ∈ s.observeEvents es,
    o.servoAngle.length = s.params.nch ∧ (∀ a ∈ o.servoAngle, a.toNat ≤ 180) ∧
    (o.failsafe = true → ∀ a ∈ o.servoAngle, a = 90#8)

/-- R219: with no polls and no reset of FSAFE, an Active FSAFE stays Active through any events of any length, whatever the
time: with no packets either it holds its angles. -/
def Obligations.WithoutPollsFailsafeIsNeverEntered : Prop :=
  ∀ (es : List Event) (s : State), s.fsafe.linkState = .active →
    (∀ e ∈ es, pollsOrResetsFsafe s.params.link e = false) →
    (s.runEvents es).fsafe.linkState = .active ∧
    (s.acceptsAlong es = false → (s.runEvents es).fsafe = s.fsafe)

/-! ### RESET and the machine -/

/-- R210: RESET on a unit's line loads that unit's reset state and leaves the other unit, with every output of the cycle
idle. `both` is the model's line shared by the two units (log 15). `last_ts` is left with no value: the statement says
nothing of it (log 4), nor of the model's counter. -/
def Obligations.ResetLoadsUnitResetState : Prop :=
  ∀ (s : State) (line : ResetLine),
    ∃ t : State,
      exec (.reset line) s = .next t ∧
      t.params = s.params ∧ t.input = s.input ∧ t.out = Outputs.idle ∧
      (line = .fsafe → t.fsync = s.fsync) ∧
      (line ≠ .fsafe → t.fsync = { inFrame := false, fill := 0, buf := [] }) ∧
      (line = .fsync → t.fsafe = s.fsafe) ∧
      (line ≠ .fsync →
        t.fsafe.linkState = .failsafe ∧ t.fsafe.tsValid = false ∧ t.fsafe.fresh = false ∧
        t.fsafe.servoAngle = List.replicate s.params.nch 90#8 ∧ t.failsafePin = true)

/-- R36, R211: the state after reset, in every instantiation, but for `last_ts`, which holds no value. -/
def Obligations.ResetStateHasStatedValues : Prop :=
  ∀ p : Params,
    (State.resetWith p).fsync = { inFrame := false, fill := 0, buf := [] } ∧
    (State.resetWith p).fsafe.linkState = .failsafe ∧
    (State.resetWith p).fsafe.tsValid = false ∧
    (State.resetWith p).fsafe.fresh = false ∧
    (State.resetWith p).fsafe.servoAngle = List.replicate p.nch 90#8 ∧
    (State.resetWith p).out.pktValid = false ∧ (State.resetWith p).out.upkValid = false ∧
    (State.resetWith p).out.servoUpd = false ∧
    (State.resetWith p).out.fsDiag.code = 0 ∧ (State.resetWith p).out.plDiag.code = 0 ∧
    (State.resetWith p).failsafePin = true

/-- R24, R30 at reset, in every instantiation; the host's reset state is one of them. -/
def Obligations.ResetMeetsInvariants : Prop :=
  (∀ p : Params, (State.resetWith p).Inv) ∧ State.reset = State.resetWith Params.reference

/-- R82, R188(a): `rst = 1` sampled with any word, and whatever the composition drives, performs RESET of that unit. Where
FSAFE's `rst` is sampled in the cycle of the unit that drives its packet inputs (the model's log 7: FSYNC on one chip, PLA in
the receiving node), FSAFE is reset whatever that unit emits in it, and what PLA drives in such a cycle is the model's log
25. -/
def Obligations.ResetOverridesEveryWord : Prop :=
  (∀ (s : State) (w : BitVec 9) (inputs : FsafeInputs) (rest : List Event), s.input = .rx true w inputs :: rest →
    step s = finishCycle (.rx true w inputs) (exec (.reset .fsync) { s with input := rest })) ∧
  (∀ (s t : State) (rst : Bool) (w : BitVec 9) (inputs : FsafeInputs) (rest : List Event),
    s.params.link = .direct → inputs.rst = true → s.input = .rx rst w inputs :: rest →
    exec (decodeEvent s.decodeCtx (.rx rst w inputs)) { s with input := rest } = .next t →
    ∃ u, exec (.reset .fsafe) t = .next u ∧
      step s = .next { u with out := { t.out with servoUpd := false } }) ∧
  (∀ (s t : State) (w : BitVec 49) (inputs : FsafeInputs) (rest : List Event),
    s.params.link = .radio → inputs.rst = true → s.input = .pl w inputs :: rest →
    exec (decodePlw w) { s with input := rest } = .next t →
    ∃ u, exec (.reset .fsafe) t = .next u ∧
      step s = .next { u with out := { t.out with servoUpd := false } }) ∧
  ∀ (s : State) (w : BitVec 74) (rest : List Event), s.input = .ctl true w :: rest →
    step s = exec (.reset .fsafe) { s with input := rest }

/-- R13, R63: a step consumes the next presented event and performs the well-formed operation that it selects. That is all,
but for an event of the unit that drives FSAFE's packet inputs, PLA's in the radio composition and FSYNC's in the direct
one: there FSAFE's operation of the same cycle follows, on that unit's packet, and the outputs of both are shown (the
model's log 7). With nothing presented a step drives no output and changes nothing (the model's log 2). -/
def Obligations.StepRunsSelectedOperation : Prop :=
  (∀ (s : State) (e : Event) (rest : List Event) (i : Instr), s.input = e :: rest →
    decodeEvent s.decodeCtx e = i → i.wf = true →
    (s.params.link = .radio → ∀ w inputs, e ≠ .pl w inputs) →
    (s.params.link = .direct → ∀ rst w inputs, e ≠ .rx rst w inputs) →
    step s = exec i { s with input := rest }) ∧
  (∀ (s : State) (w : BitVec 49) (inputs : FsafeInputs) (rest : List Event) (i : Instr),
    s.params.link = .radio → s.input = .pl w inputs :: rest → decodePlw w = i → i.wf = true →
    ∃ t u, exec i { s with input := rest } = .next t ∧
      exec (decodeLinked t.out.upk inputs) t = .next u ∧
      step s = .next { u with out := { t.out with servoUpd := u.out.servoUpd } }) ∧
  (∀ (s : State) (rst : Bool) (w : BitVec 9) (inputs : FsafeInputs) (rest : List Event) (i : Instr),
    s.params.link = .direct → s.input = .rx rst w inputs :: rest →
    decodeEvent s.decodeCtx (.rx rst w inputs) = i → i.wf = true →
    ∃ t u, exec i { s with input := rest } = .next t ∧
      exec (decodeLinked t.out.pkt inputs) t = .next u ∧
      step s = .next { u with out := { t.out with servoUpd := u.out.servoUpd } }) ∧
  ∀ s : State, s.input = [] → step s = .next { s with out := Outputs.idle }

/-- R14, R84: every event in every state is performed: a step always answers a next state. -/
def Obligations.StepAlwaysAnswersNext : Prop :=
  ∀ s : State, ∃ t : State, step s = .next t

/-- R84: every event in every state selects a well-formed operation, and so do FSAFE's inputs with the wire, whatever it
carries. -/
def Obligations.EveryEventSelectsWellFormedOperation : Prop :=
  (∀ (ctx : DecodeCtx) (e : Event), (decodeEvent ctx e).wf = true) ∧
  ∀ (upstream : Option ControlPacket) (inputs : FsafeInputs), (decodeLinked upstream inputs).wf = true

/-- R80, R76 to R78: with `rst = 0` the operation selected is that of the first opcode-table row whose state condition and
whose match and mask both hold, in every FSYNC state that R24(b) allows. -/
def Obligations.DecoderTakesFirstMatchingTableRow : Prop :=
  ∀ ctx : DecodeCtx, (ctx.inFrame = true → 1 ≤ ctx.fill.toNat ∧ ctx.fill.toNat ≤ 6) →
    (∀ w inputs, firstRow rxwRows ctx.inFrame ctx.fill w = some (decodeEvent ctx (.rx false w inputs)).mnemonic) ∧
    (∀ w inputs, firstRow plwRows ctx.inFrame ctx.fill w = some (decodeEvent ctx (.pl w inputs)).mnemonic) ∧
    ∀ w, firstRow ctlwRows ctx.inFrame ctx.fill w = some (decodeEvent ctx (.ctl false w)).mnemonic

/-- R86, R82: words that agree on the bits that are not ignored have the same effect. Ignored are the bits that R86 lists and,
with `rst = 1`, every other input of the unit; both are said of FSAFE's inputs too where it samples them in the cycle of
FSYNC (direct composition) or of PLA (radio composition). That an event holds those inputs, and that nothing reads them in
the other composition, is the model's form, log 7. -/
def Obligations.IgnoredBitsHaveNoEffect : Prop :=
  (∀ (s t : State) (rst : Bool) (v w : BitVec 9) (i j : FsafeInputs) (rest : List Event),
    (rst = false → rxValid v = rxValid w ∧ (rxValid v = true → rxData v = rxData w)) →
    exec (decodeEvent s.decodeCtx (.rx rst v i)) s = .next t →
    (s.params.link = .direct → sameSample t.out.pkt.isSome i j) →
    step { s with input := .rx rst v i :: rest } = step { s with input := .rx rst w j :: rest }) ∧
  (∀ (s : State) (v w : BitVec 49) (i j : FsafeInputs) (rest : List Event),
    plValid v = plValid w → (plValid v = true → plLen v = plLen w) →
    (plValid v = true → plLen v = 5 → plData v = plData w) →
    (s.params.link = .radio → sameSample (plValid v && plLen v == 5) i j) →
    step { s with input := .pl v i :: rest } = step { s with input := .pl w j :: rest }) ∧
  ∀ (s : State) (rst : Bool) (v w : BitVec 74) (rest : List Event),
    (rst = false →
      ctlPktValid v = ctlPktValid w ∧ ctlPoll v = ctlPoll w ∧
      (ctlPktValid v = true →
        (ctlPacket v).axisX = (ctlPacket w).axisX ∧ (ctlPacket v).axisY = (ctlPacket w).axisY) ∧
      (ctlPktValid v = true ∨ ctlPoll v = true → ctlNow v = ctlNow w)) →
    step { s with input := .ctl rst v :: rest } = step { s with input := .ctl rst w :: rest }

/-- R181, R188(f), R188(g), R117: after a step each diagnostic code is present exactly when its own operation raised it, a
packet is present only when a FS.CLOSE emitted it, and never together with a diagnostic. The last clause, that `fs_diag` and
`pl_diag` are not both raised, is no rule of the spec (R188(f) speaks of one unit): it holds because a step of the model is
one event of FSYNC or of PLA, with the outputs of the other idle (log 1, log 8). -/
def Obligations.DiagnosticsAndPacketsComeFromTheirOperation : Prop :=
  ∀ (s t : State) (e : Event) (rest : List Event), s.input = e :: rest → step s = .next t →
    let i := decodeEvent s.decodeCtx e
    (t.out.fsDiag.code = 1 ↔ i.mnemonic = "FS.SKIP") ∧
    (t.out.fsDiag.code = 2 ↔ i.mnemonic = "FS.CLOSE" ∧ t.out.pkt = none) ∧
    (t.out.plDiag.code = 3 ↔ i.mnemonic = "PL.DRAIN") ∧
    (t.out.pkt.isSome = true → i.mnemonic = "FS.CLOSE" ∧ t.out.fsDiag.code = 0) ∧
    (t.out.fsDiag.code = 0 ∨ t.out.plDiag.code = 0)

/-- R188(e), R64, R66: an operation of FSYNC leaves FSAFE, one of FSAFE leaves FSYNC, one of PLA, CHK or AXMAP and the data
formats leave both, and none changes the instantiation. -/
def Obligations.UnitsKeepOutOfEachOther : Prop :=
  ∀ (i : Instr) (s t : State), exec i s = .next t →
    t.params = s.params ∧ t.input = s.input ∧
    (i.format = .rxw → t.fsafe = s.fsafe) ∧
    (i.format = .ctlw → t.fsync = s.fsync) ∧
    (i.format ≠ .rxw → i.format ≠ .ctlw → (∀ line, i.format ≠ .rst line) →
      t.fsync = s.fsync ∧ t.fsafe = s.fsafe)

/-- R116: the sentinel's value in a frame in progress is data: it is stored, or compared as the checksum, and never opens a
frame. -/
def Obligations.SentinelInsideFrameIsData : Prop :=
  ∀ (s : State) (inputs : FsafeInputs) (rest : List Event), s.fsync.inFrame = true →
    s.input = .rx false 0x1AA#9 inputs :: rest →
    (s.fsync.fill.toNat ≤ 5 →
      step s = finishCycle (.rx false 0x1AA#9 inputs) (exec (.fsAppend 0xAA) { s with input := rest })) ∧
    (s.fsync.fill.toNat = 6 →
      step s = finishCycle (.rx false 0x1AA#9 inputs) (exec (.fsClose 0xAA) { s with input := rest }))

/-! ### The composition -/

/-- R131, R132, R133, R160, in the receiving node of the radio composition: in the cycle of a five-byte payload FSAFE accepts
its packet, from any state and whatever is presented next; in the cycle of a payload of another length, or of none, FSAFE
sees no packet, so that without a poll it is left and a poll alone performs FSF.POLL. The outputs of both units are shown.
(That one event holds the cycle of both units is the model's form, log 7.) -/
def Obligations.UnpackedPacketReachesFsafeInItsCycle : Prop :=
  ∀ (s : State) (w : BitVec 49) (inputs : FsafeInputs) (rest : List Event),
    s.params.link = .radio → s.input = .pl w inputs :: rest → inputs.rst = false →
    (plValid w = true → plLen w = 5 →
      step s = .next { s with
        input := rest
        fsafe :=
          { linkState := .active, tsValid := true, lastTs := inputs.now, fresh := !inputs.poll
            servoAngle := mix s.params ((plData w).extractLsb' 0 16) ((plData w).extractLsb' 16 16) }
        out := { Outputs.idle with
          upk := some
            { axisX := (plData w).extractLsb' 0 16, axisY := (plData w).extractLsb' 16 16
              button := (plData w).extractLsb' 32 8 }
          servoUpd := true } }) ∧
    (¬(plValid w = true ∧ plLen w = 5) →
      let driven := { Outputs.idle with plDiag := if plValid w = true then Diag.badLen else Diag.quiet }
      (inputs.poll = false → step s = .next { s with input := rest, out := driven }) ∧
      (inputs.poll = true →
        ∃ u, exec (.fsfPoll inputs.now) { s with input := rest } = .next u ∧
          step s = .next { u with out := { driven with servoUpd := u.out.servoUpd } }))

/-- R136, R67, R169, R218: a batch of payloads, one event each, before its poll, in the radio composition. Each five-byte
payload of any content is accepted by FSAFE in its own event, which shows its angles, Active and the update; after the batch
FSAFE holds the last one's angles and the time of its event, whatever payloads of other lengths and empty cycles come before,
between and after. (One event for the cycle of both units: log 7.) -/
def Obligations.BatchOfPayloadsIsAcceptedInOrder : Prop :=
  ∀ (s : State) (batch : List (BitVec 49 × FsafeInputs)),
    s.params.link = .radio → (∀ x ∈ batch, x.2.rst = false ∧ x.2.poll = false) →
    let events := batch.map fun x => Event.pl x.1 x.2
    (∀ (k : Nat) (w : BitVec 49) (inputs : FsafeInputs), batch[k]? = some (w, inputs) →
      plValid w = true → plLen w = 5 →
      (s.observeEvents events)[k]?.map (fun o => (o.servoAngle, o.failsafe, o.out.servoUpd)) =
        some (mix s.params ((plData w).extractLsb' 0 16) ((plData w).extractLsb' 16 16), false, true)) ∧
    ∀ (before after : List (BitVec 49 × FsafeInputs)) (w : BitVec 49) (inputs : FsafeInputs),
      batch = before ++ (w, inputs) :: after → plValid w = true → plLen w = 5 →
      (∀ x ∈ after, ¬(plValid x.1 = true ∧ plLen x.1 = 5)) →
      (s.runEvents events).fsafe =
        { linkState := .active, tsValid := true, lastTs := inputs.now, fresh := true
          servoAngle := mix s.params ((plData w).extractLsb' 0 16) ((plData w).extractLsb' 16 16) }

/-- R64, R188(e), R117, R160: in the direct composition a packet that FSYNC emits is accepted by FSAFE in the same event,
whatever is presented next: no event can come between and none is needed after. In a cycle in which FSYNC emits none, FSAFE
is left without a poll, and a poll alone performs FSF.POLL. The outputs of both units are shown at once. (The composition as
the model wires it, log 7.) -/
def Obligations.DirectDeliveryIsLossFreeAndImmediate : Prop :=
  ∀ (s t : State) (rst : Bool) (w : BitVec 9) (inputs : FsafeInputs) (rest : List Event),
    s.params.link = .direct → s.input = .rx rst w inputs :: rest → inputs.rst = false →
    exec (decodeEvent s.decodeCtx (.rx rst w inputs)) { s with input := rest } = .next t →
    (∀ q, t.out.pkt = some q →
      step s = .next { t with
        fsafe :=
          { linkState := .active, tsValid := true, lastTs := inputs.now, fresh := !inputs.poll
            servoAngle := mix s.params q.axisX q.axisY }
        out := { t.out with servoUpd := true } }) ∧
    (t.out.pkt = none → inputs.poll = false → step s = .next t) ∧
    (t.out.pkt = none → inputs.poll = true →
      ∃ u, exec (.fsfPoll inputs.now) t = .next u ∧
        step s = .next { u with out := { t.out with servoUpd := u.out.servoUpd } })

/-- R3, R134: over any sequence of cycles from any state, FSAFE's resets and polls among them, the direct composition and the
radio composition with a loss-free transport bring FSYNC and FSAFE to the same states (the composition as the model wires
it, log 7, log 9). -/
def Obligations.DirectAndLossFreeRadioAgree : Prop :=
  ∀ (cycles : List LinkCycle) (s : State),
    let d := cycles.foldl State.directCycle (s.linkAs .direct)
    let r := cycles.foldl State.radioCycle (s.linkAs .radio)
    d.fsync = r.fsync ∧ d.fsafe = r.fsafe ∧ d.failsafePin = r.failsafePin ∧
    d.out.servoUpd = r.out.servoUpd

/-! ### Encodings -/

/-- R70, R72, R76 to R78, R81, R82: decoding the bytes of an encoded well-formed operation gives the operation, with every
operand, in every FSYNC state that can select it. -/
def Obligations.DecodeOfEncodeIsIdentity : Prop :=
  ∀ (ctx : DecodeCtx) (i : Instr), i.wf = true → i.selectable ctx.inFrame ctx.fill = true →
    decodeBytes i.format ctx (encode i) = .ok i

/-- Words written out from the spec's encodings (R76 to R78, R81; vectors T-FS-2, T-PL-5, T-PL-7, T-FSF-2, T-PL-1) decode to
their operations. -/
def Obligations.WrittenWordsDecode : Prop :=
  decodeEvent DecodeCtx.afterReset (.rx false 0b110101010#9 FsafeInputs.idle) = .fsSof ∧
  decodeEvent DecodeCtx.afterReset (.rx false 0b101010101#9 FsafeInputs.idle) = .fsSkip 0x55 ∧
  decodeEvent DecodeCtx.afterReset (.pl 0x10501FC1803E8#49 FsafeInputs.idle) = .plUnpack 0x01FC1803E8 ∧
  decodeEvent DecodeCtx.afterReset (.pl 0x10601FC1803E8#49 FsafeInputs.idle) = .plDrain 6 ∧
  decodeEvent DecodeCtx.afterReset (.ctl false 0x103E8FC180100001388#74) =
    .fsfPkt ⟨0x03E8, 0xFC18, 1⟩ 5000 ∧
  decodeEvent DecodeCtx.afterReset (.cp 0x03E8FC1801#40) = .plPack ⟨0x03E8, 0xFC18, 1⟩
end

