-- ==== Sys2Proof/Laws/Decode.lean ====
section
/-! SUPPORT. Laws/Decode.lean: bytes and words. -/

namespace Sys2Proof

@[simp] theorem leBytes_length (count w : Nat) : (leBytes count w).length = count := by
  induction count generalizing w with
  | zero => rfl
  | succ n ih => simp [leBytes, ih]

/-- Reading back the low bytes of a value gives it modulo their span. -/
theorem leNat_leBytes (count w : Nat) : leNat (leBytes count w) = w % 2 ^ (8 * count) := by
  induction count generalizing w with
  | zero => simp [leBytes, leNat, Nat.mod_one]
  | succ n ih =>
    simp only [leBytes, leNat, ih, BitVec.toNat_ofNat]
    have e : (2 : Nat) ^ (8 * (n + 1)) = 256 * 2 ^ (8 * n) := by rw [Nat.mul_add, Nat.pow_add]; ring
    rw [e, Nat.mod_mul]

theorem leNat_lt (bytes : List Byte) : leNat bytes < 2 ^ (8 * bytes.length) := by
  induction bytes with
  | nil => simp [leNat]
  | cons b bs ih =>
    have e : (2 : Nat) ^ (8 * (b :: bs).length) = 256 * 2 ^ (8 * bs.length) := by
      rw [List.length_cons, Nat.mul_add, Nat.pow_add]; ring
    have := b.isLt
    rw [e]; simp only [leNat]; omega

/-- A byte sequence is the low bytes of its value. -/
theorem leBytes_leNat (bytes : List Byte) : leBytes bytes.length (leNat bytes) = bytes := by
  induction bytes with
  | nil => rfl
  | cons b bs ih =>
    have hb := b.isLt
    have h1 : (b.toNat + 256 * leNat bs) / 256 = leNat bs := by omega
    have h2 : BitVec.ofNat 8 (b.toNat + 256 * leNat bs) = b := by
      apply BitVec.eq_of_toNat_eq; simp only [BitVec.toNat_ofNat]; omega
    simp only [List.length_cons, leNat, leBytes, h1, h2, ih]

/-- A byte of a word, as a number. -/
theorem byteAt_toNat {n : Nat} (w : BitVec n) (i : Nat) : (byteAt w i).toNat = w.toNat / 256 ^ i % 256 := by
  have e : (2 : Nat) ^ (8 * i) = 256 ^ i := by rw [pow_mul]; norm_num
  simp [byteAt, Nat.shiftRight_eq_div_pow, e]

/-- The number of two words put together. -/
theorem append_toNat {m n : Nat} (x : BitVec m) (y : BitVec n) : (x ++ y).toNat = x.toNat * 2 ^ n + y.toNat := by
  rw [BitVec.toNat_append, ← Nat.shiftLeft_add_eq_or_of_lt y.isLt, Nat.shiftLeft_eq]

/-- What the bytes after the first `i` are worth. -/
theorem leNat_div (bytes : List Byte) (i : Nat) : leNat bytes / 256 ^ i = leNat (bytes.drop i) := by
  induction i generalizing bytes with
  | zero => simp
  | succ n ih =>
    cases bytes with
    | nil => simp [leNat]
    | cons b bs =>
      have hb := b.isLt
      rw [pow_succ', ← Nat.div_div_eq_div_mul]
      have : (leNat (b :: bs)) / 256 = leNat bs := by simp only [leNat]; omega
      rw [this, ih, List.drop_succ_cons]

/-- A byte of a word that holds a byte sequence is that byte. -/
theorem byteAt_ofNat_leNat {n : Nat} {bytes : List Byte} {i : Nat} {b : Byte} (h : bytes[i]? = some b) (hn : 8 * bytes.length ≤ n) :
    byteAt (BitVec.ofNat n (leNat bytes)) i = b := by
  apply BitVec.eq_of_toNat_eq
  have hlt : leNat bytes < 2 ^ n := lt_of_lt_of_le (leNat_lt bytes) (Nat.pow_le_pow_right (by decide) hn)
  have hb := b.isLt
  obtain ⟨hi, he⟩ := List.getElem?_eq_some_iff.1 h
  rw [byteAt_toNat, BitVec.toNat_ofNat, Nat.mod_eq_of_lt hlt, leNat_div, List.drop_eq_getElem_cons hi, he]
  simp only [leNat]; omega

/-! ### Constants and fields -/

/-- The covered indices, written out. -/
@[simp] theorem chkIndices_eq : Config.chkIndices = [1, 2, 3, 4, 5] := rfl

/-- `packetAt` from a given index. -/
theorem packetAt_eq (read : Nat → Byte) (first : Nat) : packetAt read first =
    ⟨s16le (read first) (read (first + 1)), s16le (read (first + 2)) (read (first + 3)), read (first + 4)⟩ := rfl

/-! ### The decoder's cases -/

theorem decodeRxw_idle {inFrame : Bool} {fill : BitVec 3} {w : BitVec 9} (h : rxValid w = false) :
    decodeRxw inFrame fill w = .fsIdle := by simp [decodeRxw, h]

theorem decodeRxw_scanning {fill : BitVec 3} {w : BitVec 9} (h : rxValid w = true) :
    decodeRxw false fill w = if rxData w = Config.sentinel then .fsSof else .fsSkip (rxData w) := by
  simp [decodeRxw, h]

theorem decodeRxw_inFrame {fill : BitVec 3} {w : BitVec 9} (h : rxValid w = true) :
    decodeRxw true fill w = if fill.toNat ≤ 5 then .fsAppend (rxData w) else .fsClose (rxData w) := by
  simp [decodeRxw, h]

theorem decodePlw_idle {w : BitVec 49} (h : plValid w = false) : decodePlw w = .plIdle := by
  simp [decodePlw, h]

theorem decodePlw_valid {w : BitVec 49} (h : plValid w = true) :
    decodePlw w = if plLen w = Config.payloadLen then .plUnpack (plData w) else .plDrain (plLen w) := by
  simp [decodePlw, h]

/-! ### Fields of words put together -/

/-- A field that lies in the low word of two put together. -/
theorem extract_low {m n : Nat} (x : BitVec m) (y : BitVec n) {a k : Nat} (h : a + k ≤ n) :
    (x ++ y).extractLsb' a k = y.extractLsb' a k := BitVec.extractLsb'_append_eq_of_add_le h

/-- A field that lies in the high word of two put together. -/
theorem extract_high {m n : Nat} (x : BitVec m) (y : BitVec n) {a k : Nat} (h : n ≤ a) :
    (x ++ y).extractLsb' a k = x.extractLsb' (a - n) k := BitVec.extractLsb'_append_eq_of_le h

/-- The low word of two put together. -/
theorem extract_low_word {m n : Nat} (x : BitVec m) (y : BitVec n) : (x ++ y).extractLsb' 0 n = y :=
  (extract_low x y (Nat.le_of_eq (Nat.zero_add n))).trans BitVec.extractLsb'_eq_self

@[simp] theorem ctlPoll_ctlWord (poll valid : Bool) (p : ControlPacket) (now : Time) :
    ctlPoll (ctlWord poll valid p now) = poll := by
  simp only [ctlPoll, ctlWord, BitVec.getLsbD_append]
  simp [Config.axisWidth, Config.buttonWidth]

@[simp] theorem ctlPktValid_ctlWord (poll valid : Bool) (p : ControlPacket) (now : Time) :
    ctlPktValid (ctlWord poll valid p now) = valid := by
  simp only [ctlPktValid, ctlWord, BitVec.getLsbD_append]
  simp [Config.axisWidth, Config.buttonWidth]

@[simp] theorem ctlNow_ctlWord (poll valid : Bool) (p : ControlPacket) (now : Time) :
    ctlNow (ctlWord poll valid p now) = now := extract_low_word _ _

@[simp] theorem ctlPacket_ctlWord (poll valid : Bool) (p : ControlPacket) (now : Time) :
    ctlPacket (ctlWord poll valid p now) = p := by
  obtain ⟨x, y, b⟩ := p
  have hb : (ctlWord poll valid ⟨x, y, b⟩ now).extractLsb' 32 8 = b :=
    (extract_high _ now (by decide)).trans (extract_low_word _ b)
  have hy : (ctlWord poll valid ⟨x, y, b⟩ now).extractLsb' 40 16 = y :=
    (extract_high _ now (by decide)).trans ((extract_high _ b (by decide)).trans (extract_low_word _ y))
  have hx : (ctlWord poll valid ⟨x, y, b⟩ now).extractLsb' 56 16 = x :=
    (extract_high _ now (by decide)).trans ((extract_high _ b (by decide)).trans
      ((extract_high _ y (by decide)).trans (extract_low_word _ x)))
  simp only [ctlPacket, hx, hy, hb]

end Sys2Proof
end

