-- ==== Sys2Proof/Laws/State.lean ====
section
/-! SUPPORT. Laws/State.lean: one lemma per field per update of the state, so that no later proof unfolds a record update. -/

namespace Sys2Proof.Machine

/-! ### quiet -/

@[simp] theorem State.quiet_params (s : State) : s.quiet.params = s.params := rfl

@[simp] theorem State.quiet_fsync (s : State) : s.quiet.fsync = s.fsync := rfl

@[simp] theorem State.quiet_fsafe (s : State) : s.quiet.fsafe = s.fsafe := rfl

@[simp] theorem State.quiet_out (s : State) : s.quiet.out = Outputs.idle := rfl

@[simp] theorem State.quiet_input (s : State) : s.quiet.input = s.input := rfl

@[simp] theorem State.quiet_freeCount (s : State) : s.quiet.freeCount = s.freeCount := rfl

/-! ### raiseFs -/

@[simp] theorem State.raiseFs_params (s : State) (d : Diag) : (s.raiseFs d).params = s.params := rfl

@[simp] theorem State.raiseFs_fsync (s : State) (d : Diag) : (s.raiseFs d).fsync = s.fsync := rfl

@[simp] theorem State.raiseFs_fsafe (s : State) (d : Diag) : (s.raiseFs d).fsafe = s.fsafe := rfl

@[simp] theorem State.raiseFs_out (s : State) (d : Diag) :
    (s.raiseFs d).out = { s.out with fsDiag := d } := rfl

@[simp] theorem State.raiseFs_input (s : State) (d : Diag) : (s.raiseFs d).input = s.input := rfl

@[simp] theorem State.raiseFs_freeCount (s : State) (d : Diag) : (s.raiseFs d).freeCount = s.freeCount := rfl

/-! ### raisePl -/

@[simp] theorem State.raisePl_params (s : State) (d : Diag) : (s.raisePl d).params = s.params := rfl

@[simp] theorem State.raisePl_fsync (s : State) (d : Diag) : (s.raisePl d).fsync = s.fsync := rfl

@[simp] theorem State.raisePl_fsafe (s : State) (d : Diag) : (s.raisePl d).fsafe = s.fsafe := rfl

@[simp] theorem State.raisePl_out (s : State) (d : Diag) :
    (s.raisePl d).out = { s.out with plDiag := d } := rfl

@[simp] theorem State.raisePl_input (s : State) (d : Diag) : (s.raisePl d).input = s.input := rfl

@[simp] theorem State.raisePl_freeCount (s : State) (d : Diag) : (s.raisePl d).freeCount = s.freeCount := rfl

/-! ### driveFn -/

@[simp] theorem State.driveFn_params (s : State) (r : FnResult) : (s.driveFn r).params = s.params := rfl

@[simp] theorem State.driveFn_fsync (s : State) (r : FnResult) : (s.driveFn r).fsync = s.fsync := rfl

@[simp] theorem State.driveFn_fsafe (s : State) (r : FnResult) : (s.driveFn r).fsafe = s.fsafe := rfl

@[simp] theorem State.driveFn_out (s : State) (r : FnResult) :
    (s.driveFn r).out = { s.out with fn := some r } := rfl

@[simp] theorem State.driveFn_input (s : State) (r : FnResult) : (s.driveFn r).input = s.input := rfl

@[simp] theorem State.driveFn_freeCount (s : State) (r : FnResult) :
    (s.driveFn r).freeCount = s.freeCount := rfl

/-! ### driveTx -/

@[simp] theorem State.driveTx_params (s : State) (p : ControlPacket) : (s.driveTx p).params = s.params := rfl

@[simp] theorem State.driveTx_fsync (s : State) (p : ControlPacket) : (s.driveTx p).fsync = s.fsync := rfl

@[simp] theorem State.driveTx_fsafe (s : State) (p : ControlPacket) : (s.driveTx p).fsafe = s.fsafe := rfl

@[simp] theorem State.driveTx_out (s : State) (p : ControlPacket) :
    (s.driveTx p).out = { s.out with tx := some (payloadEncode p) } := rfl

@[simp] theorem State.driveTx_input (s : State) (p : ControlPacket) : (s.driveTx p).input = s.input := rfl

@[simp] theorem State.driveTx_freeCount (s : State) (p : ControlPacket) :
    (s.driveTx p).freeCount = s.freeCount := rfl

/-! ### emitUnpacked -/

@[simp] theorem State.emitUnpacked_params (s : State) (p : ControlPacket) :
    (s.emitUnpacked p).params = s.params := rfl

@[simp] theorem State.emitUnpacked_fsync (s : State) (p : ControlPacket) :
    (s.emitUnpacked p).fsync = s.fsync := rfl

@[simp] theorem State.emitUnpacked_fsafe (s : State) (p : ControlPacket) :
    (s.emitUnpacked p).fsafe = s.fsafe := rfl

@[simp] theorem State.emitUnpacked_out (s : State) (p : ControlPacket) :
    (s.emitUnpacked p).out = { s.out with upk := some p } := rfl

@[simp] theorem State.emitUnpacked_input (s : State) (p : ControlPacket) :
    (s.emitUnpacked p).input = s.input := rfl

@[simp] theorem State.emitUnpacked_freeCount (s : State) (p : ControlPacket) :
    (s.emitUnpacked p).freeCount = s.freeCount := rfl

/-! ### openFrame -/

@[simp] theorem State.openFrame_params (s : State) : s.openFrame.params = s.params := rfl

@[simp] theorem State.openFrame_fsync (s : State) : s.openFrame.fsync = ⟨true, 1, [Config.sentinel]⟩ := rfl

@[simp] theorem State.openFrame_fsafe (s : State) : s.openFrame.fsafe = s.fsafe := rfl

@[simp] theorem State.openFrame_out (s : State) : s.openFrame.out = s.out := rfl

@[simp] theorem State.openFrame_input (s : State) : s.openFrame.input = s.input := rfl

@[simp] theorem State.openFrame_freeCount (s : State) : s.openFrame.freeCount = s.freeCount := rfl

/-! ### storeByte -/

@[simp] theorem State.storeByte_params (s : State) (v : Byte) : (s.storeByte v).params = s.params := rfl

@[simp] theorem State.storeByte_fsync (s : State) (v : Byte) :
    (s.storeByte v).fsync = ⟨true, s.fsync.fill + 1, bufWrite s.fsync.buf s.fsync.fill.toNat v⟩ := rfl

@[simp] theorem State.storeByte_fsafe (s : State) (v : Byte) : (s.storeByte v).fsafe = s.fsafe := rfl

@[simp] theorem State.storeByte_out (s : State) (v : Byte) : (s.storeByte v).out = s.out := rfl

@[simp] theorem State.storeByte_input (s : State) (v : Byte) : (s.storeByte v).input = s.input := rfl

@[simp] theorem State.storeByte_freeCount (s : State) (v : Byte) :
    (s.storeByte v).freeCount = s.freeCount := rfl

/-! ### closeFrame -/

@[simp] theorem State.closeFrame_params (s : State) : s.closeFrame.params = s.params := rfl

@[simp] theorem State.closeFrame_fsync (s : State) : s.closeFrame.fsync = Fsync.reset := rfl

@[simp] theorem State.closeFrame_fsafe (s : State) : s.closeFrame.fsafe = s.fsafe := rfl

@[simp] theorem State.closeFrame_out (s : State) : s.closeFrame.out = s.out := rfl

@[simp] theorem State.closeFrame_input (s : State) : s.closeFrame.input = s.input := rfl

@[simp] theorem State.closeFrame_freeCount (s : State) : s.closeFrame.freeCount = s.freeCount + 1 := rfl

/-! ### acceptPacket -/

@[simp] theorem State.acceptPacket_params (s : State) (p : ControlPacket) (now : Time) :
    (s.acceptPacket p now).params = s.params := rfl

@[simp] theorem State.acceptPacket_fsync (s : State) (p : ControlPacket) (now : Time) :
    (s.acceptPacket p now).fsync = s.fsync := rfl

@[simp] theorem State.acceptPacket_fsafe (s : State) (p : ControlPacket) (now : Time) :
    (s.acceptPacket p now).fsafe = ⟨.active, true, now, true, mix s.params p.axisX p.axisY⟩ := rfl

@[simp] theorem State.acceptPacket_out (s : State) (p : ControlPacket) (now : Time) :
    (s.acceptPacket p now).out = { s.out with servoUpd := true } := rfl

@[simp] theorem State.acceptPacket_input (s : State) (p : ControlPacket) (now : Time) :
    (s.acceptPacket p now).input = s.input := rfl

@[simp] theorem State.acceptPacket_freeCount (s : State) (p : ControlPacket) (now : Time) :
    (s.acceptPacket p now).freeCount = s.freeCount := rfl

/-! ### enterFailsafe -/

@[simp] theorem State.enterFailsafe_params (s : State) : s.enterFailsafe.params = s.params := rfl

@[simp] theorem State.enterFailsafe_fsync (s : State) : s.enterFailsafe.fsync = s.fsync := rfl

@[simp] theorem State.enterFailsafe_fsafe (s : State) :
    s.enterFailsafe.fsafe = { s.fsafe with linkState := .failsafe, servoAngle := neutralAngles s.params.nch } := rfl

@[simp] theorem State.enterFailsafe_out (s : State) :
    s.enterFailsafe.out = { s.out with servoUpd := true } := rfl

@[simp] theorem State.enterFailsafe_input (s : State) : s.enterFailsafe.input = s.input := rfl

@[simp] theorem State.enterFailsafe_freeCount (s : State) : s.enterFailsafe.freeCount = s.freeCount := rfl

/-! ### clearFresh -/

@[simp] theorem State.clearFresh_params (s : State) : s.clearFresh.params = s.params := rfl

@[simp] theorem State.clearFresh_fsync (s : State) : s.clearFresh.fsync = s.fsync := rfl

@[simp] theorem State.clearFresh_fsafe (s : State) :
    s.clearFresh.fsafe = { s.fsafe with fresh := false } := rfl

@[simp] theorem State.clearFresh_out (s : State) : s.clearFresh.out = s.out := rfl

@[simp] theorem State.clearFresh_input (s : State) : s.clearFresh.input = s.input := rfl

@[simp] theorem State.clearFresh_freeCount (s : State) : s.clearFresh.freeCount = s.freeCount := rfl

/-! ### resetFsync -/

@[simp] theorem State.resetFsync_params (s : State) : s.resetFsync.params = s.params := rfl

@[simp] theorem State.resetFsync_fsync (s : State) : s.resetFsync.fsync = Fsync.reset := rfl

@[simp] theorem State.resetFsync_fsafe (s : State) : s.resetFsync.fsafe = s.fsafe := rfl

@[simp] theorem State.resetFsync_out (s : State) : s.resetFsync.out = s.out := rfl

@[simp] theorem State.resetFsync_input (s : State) : s.resetFsync.input = s.input := rfl

@[simp] theorem State.resetFsync_freeCount (s : State) : s.resetFsync.freeCount = s.freeCount := rfl

/-! ### resetFsafe -/

@[simp] theorem State.resetFsafe_params (s : State) : s.resetFsafe.params = s.params := rfl

@[simp] theorem State.resetFsafe_fsync (s : State) : s.resetFsafe.fsync = s.fsync := rfl

@[simp] theorem State.resetFsafe_fsafe (s : State) :
    s.resetFsafe.fsafe = Fsafe.resetWith s.params.nch (Config.unsetTime s.freeCount) := rfl

@[simp] theorem State.resetFsafe_out (s : State) : s.resetFsafe.out = s.out := rfl

@[simp] theorem State.resetFsafe_input (s : State) : s.resetFsafe.input = s.input := rfl

@[simp] theorem State.resetFsafe_freeCount (s : State) : s.resetFsafe.freeCount = s.freeCount + 1 := rfl

/-! ### withOutputsOf -/

@[simp] theorem State.withOutputsOf_params (s t : State) : (s.withOutputsOf t).params = s.params := rfl

@[simp] theorem State.withOutputsOf_fsync (s t : State) : (s.withOutputsOf t).fsync = s.fsync := rfl

@[simp] theorem State.withOutputsOf_fsafe (s t : State) : (s.withOutputsOf t).fsafe = s.fsafe := rfl

@[simp] theorem State.withOutputsOf_input (s t : State) : (s.withOutputsOf t).input = s.input := rfl

@[simp] theorem State.withOutputsOf_freeCount (s t : State) : (s.withOutputsOf t).freeCount = s.freeCount := rfl

@[simp] theorem State.withOutputsOf_out (s t : State) :
    (s.withOutputsOf t).out = { t.out with servoUpd := s.out.servoUpd } := rfl

/-! ### observation -/

@[simp] theorem State.observation_out (s : State) : s.observation.out = s.out := rfl

@[simp] theorem State.observation_failsafe (s : State) : s.observation.failsafe = s.fsafe.linkState.bit := rfl

@[simp] theorem State.observation_servoAngle (s : State) : s.observation.servoAngle = s.fsafe.servoAngle := rfl

/-! ### present -/

@[simp] theorem State.present_params (s : State) (e : Event) : (s.present e).params = s.params := rfl

@[simp] theorem State.present_fsync (s : State) (e : Event) : (s.present e).fsync = s.fsync := rfl

@[simp] theorem State.present_fsafe (s : State) (e : Event) : (s.present e).fsafe = s.fsafe := rfl

@[simp] theorem State.present_out (s : State) (e : Event) : (s.present e).out = s.out := rfl

@[simp] theorem State.present_input (s : State) (e : Event) : (s.present e).input = e :: s.input := rfl

@[simp] theorem State.present_freeCount (s : State) (e : Event) : (s.present e).freeCount = s.freeCount := rfl

/-! ### emitPacket -/

@[simp] theorem State.emitPacket_params (s : State) (p : ControlPacket) :
    (s.emitPacket p).params = s.params := by
  unfold State.emitPacket
  split <;> rfl

@[simp] theorem State.emitPacket_fsync (s : State) (p : ControlPacket) :
    (s.emitPacket p).fsync = s.fsync := by
  unfold State.emitPacket
  split <;> rfl

@[simp] theorem State.emitPacket_fsafe (s : State) (p : ControlPacket) :
    (s.emitPacket p).fsafe = s.fsafe := by
  unfold State.emitPacket
  split <;> rfl

@[simp] theorem State.emitPacket_input (s : State) (p : ControlPacket) :
    (s.emitPacket p).input = s.input := by
  unfold State.emitPacket
  split <;> rfl

@[simp] theorem State.emitPacket_freeCount (s : State) (p : ControlPacket) :
    (s.emitPacket p).freeCount = s.freeCount := by
  unfold State.emitPacket
  split <;> rfl

/-- The outputs of an emitted packet: the packet, and in the radio composition the packed payload. -/
theorem State.emitPacket_out (s : State) (p : ControlPacket) :
    (s.emitPacket p).out =
      match s.params.link with
      | .radio => { s.out with pkt := some p, tx := some (payloadEncode p) }
      | .direct => { s.out with pkt := some p } := by
  unfold State.emitPacket
  cases s.params.link <;> rfl

/-! ### Reset states -/

@[simp] theorem State.resetWith_params (p : Params) : (State.resetWith p).params = p := rfl

@[simp] theorem State.resetWith_fsync (p : Params) : (State.resetWith p).fsync = Fsync.reset := rfl

@[simp] theorem State.resetWith_fsafe (p : Params) : (State.resetWith p).fsafe = Fsafe.resetWith p.nch 0 := rfl

@[simp] theorem State.resetWith_out (p : Params) : (State.resetWith p).out = Outputs.idle := rfl

@[simp] theorem State.resetWith_input (p : Params) : (State.resetWith p).input = [] := rfl

@[simp] theorem State.resetWith_freeCount (p : Params) : (State.resetWith p).freeCount = 0 := rfl

@[simp] theorem Fsync.reset_inFrame : Fsync.reset.inFrame = false := rfl

@[simp] theorem Fsync.reset_fill : Fsync.reset.fill = 0 := rfl

@[simp] theorem Fsync.reset_buf : Fsync.reset.buf = [] := rfl

@[simp] theorem Fsafe.resetWith_linkState (n : Nat) (t : Time) : (Fsafe.resetWith n t).linkState = .failsafe := rfl

@[simp] theorem Fsafe.resetWith_tsValid (n : Nat) (t : Time) : (Fsafe.resetWith n t).tsValid = false := rfl

@[simp] theorem Fsafe.resetWith_lastTs (n : Nat) (t : Time) : (Fsafe.resetWith n t).lastTs = t := rfl

@[simp] theorem Fsafe.resetWith_fresh (n : Nat) (t : Time) : (Fsafe.resetWith n t).fresh = false := rfl

@[simp] theorem Fsafe.resetWith_servoAngle (n : Nat) (t : Time) : (Fsafe.resetWith n t).servoAngle = neutralAngles n := rfl

@[simp] theorem Outputs.idle_pkt : Outputs.idle.pkt = none := rfl

@[simp] theorem Outputs.idle_fsDiag : Outputs.idle.fsDiag = .quiet := rfl

@[simp] theorem Outputs.idle_tx : Outputs.idle.tx = none := rfl

@[simp] theorem Outputs.idle_upk : Outputs.idle.upk = none := rfl

@[simp] theorem Outputs.idle_plDiag : Outputs.idle.plDiag = .quiet := rfl

@[simp] theorem Outputs.idle_servoUpd : Outputs.idle.servoUpd = false := rfl

@[simp] theorem Outputs.idle_fn : Outputs.idle.fn = none := rfl

end Sys2Proof.Machine
end

