-- ==== Sys2Proof/Laws/Ops.lean ====
section
/-! SUPPORT. Laws/Ops.lean: for each shared operation, once, everything it can do. -/

namespace Sys2Proof.Machine

/-! ### The frame buffer -/

/-- A read below the end gives the byte held there. -/
theorem bufRead_of_getElem? {free : Nat} {buf : List Byte} {i : Nat} {b : Byte} (h : buf[i]? = some b) :
    bufRead free buf i = b := by simp [bufRead, h]

/-- A write at the end of the bytes held adds one. -/
theorem bufWrite_at_end (buf : List Byte) (v : Byte) : bufWrite buf buf.length v = buf ++ [v] := by
  simp [bufWrite]

theorem bufWrite_of_length {buf : List Byte} {i : Nat} (h : buf.length = i) (v : Byte) :
    bufWrite buf i v = buf ++ [v] := by
  subst h; exact bufWrite_at_end buf v

/-- The data bytes of a full buffer are those held at indices 1 to 5. -/
theorem dataBytes_full (free : Nat) (b0 b1 b2 b3 b4 b5 : Byte) :
    dataBytes free [b0, b1, b2, b3, b4, b5] = [b1, b2, b3, b4, b5] := rfl

theorem bufPacket_full (free : Nat) (b0 b1 b2 b3 b4 b5 : Byte) :
    bufPacket free [b0, b1, b2, b3, b4, b5] = ⟨s16le b1 b2, s16le b3 b4, b5⟩ := rfl

/-! ### CHK -/

theorem chk_toNat (span : List Byte) : (chk span).toNat = (span.map BitVec.toNat).sum % 256 := by
  simp [chk]

/-! ### Angles -/

theorem clamp_mem {v lo hi : Int} (h : lo ≤ hi) : lo ≤ clamp v lo hi ∧ clamp v lo hi ≤ hi := by
  unfold clamp; split_ifs <;> omega

theorem clamp_of_mem {v lo hi : Int} (h₁ : lo ≤ v) (h₂ : v ≤ hi) : clamp v lo hi = v := by
  unfold clamp; split_ifs <;> omega

/-- Narrowing to an angle loses nothing: the bounds fit 8 bits. -/
theorem angleOf_toNat (d : Int) : ((angleOf d).toNat : Int) = clamp d 0 180 := by
  have h : (0 : Int) ≤ clamp d 0 180 ∧ clamp d 0 180 ≤ 180 := clamp_mem (by decide)
  have e : angleOf d = BitVec.ofInt 8 (clamp d 0 180) := rfl
  rw [e, BitVec.toNat_ofInt]
  omega

theorem angleOf_le (d : Int) : (angleOf d).toNat ≤ 180 := by
  have h : (0 : Int) ≤ clamp d 0 180 ∧ clamp d 0 180 ≤ 180 := clamp_mem (by decide)
  have := angleOf_toNat d
  omega

theorem mapAxis_le (travel : Nat) (raw : AxisWord) : (mapAxis travel raw).toNat ≤ 180 := angleOf_le _

theorem mirror_le (a : Byte) : (mirror a).toNat ≤ 180 := angleOf_le _

/-- The mirror of an angle is its complement; of anything larger, 0. -/
theorem mirror_toNat (a : Byte) : (mirror a).toNat = 180 - a.toNat := by
  have h := angleOf_toNat (Config.angleMax - a.toNat)
  have e : Config.angleMax = 180 := rfl
  unfold mirror
  rw [e] at h ⊢
  unfold clamp at h
  split_ifs at h <;> omega

theorem channelAngle_le {ax ay : Byte} (hx : ax.toNat ≤ 180) (hy : ay.toNat ≤ 180) (c : Channel) :
    (channelAngle ax ay c).toNat ≤ 180 := by
  rcases c with ⟨axis, mir⟩
  cases axis <;> cases mir <;> simp [channelAngle, hx, hy, mirror_le]

@[simp] theorem mix_length (p : Params) (x y : AxisWord) : (mix p x y).length = p.nch := by
  simp [mix, Params.nch]

theorem mix_le (p : Params) (x y : AxisWord) : ∀ a ∈ mix p x y, a.toNat ≤ 180 := by
  intro a ha
  obtain ⟨c, -, rfl⟩ := List.mem_map.1 ha
  exact channelAngle_le (mapAxis_le _ _) (mapAxis_le _ _) c

@[simp] theorem neutralAngles_length (n : Nat) : (neutralAngles n).length = n := by
  simp [neutralAngles]

theorem mem_neutralAngles {n : Nat} {a : Byte} (h : a ∈ neutralAngles n) : a = 90#8 :=
  (List.mem_replicate.1 h).2

/-! ### FSAFE -/

/-- The timeout predicate as a proposition. -/
theorem Fsafe.expired_iff (f : Fsafe) (now : Time) :
    f.expired now = true ↔ f.tsValid = false ∨ 800 < (elapsed now f.lastTs).toNat := by
  rw [Fsafe.expired, Bool.or_eq_true, Bool.not_eq_true', decide_eq_true_iff]
  rfl

/-- The time since the last packet, on the numbers. -/
theorem elapsed_toNat (now lastTs : Time) :
    (elapsed now lastTs).toNat = (now.toNat + 2 ^ 32 - lastTs.toNat) % 2 ^ 32 := by
  have := lastTs.isLt
  rw [elapsed, BitVec.toNat_sub]; congr 1; omega

/-- What the poll check can do: POLL.FRESH, POLL.FORCE or POLL.HOLD, each with its condition. -/
theorem State.pollCheck_cases (s : State) (now : Time) :
    (s.fsafe.fresh = true ∧ s.pollCheck now = s.clearFresh) ∨
    (s.fsafe.fresh = false ∧ s.fsafe.expired now = true ∧ s.pollCheck now = s.enterFailsafe) ∨
    (s.fsafe.fresh = false ∧ s.fsafe.expired now = false ∧ s.pollCheck now = s) := by
  unfold State.pollCheck
  cases hf : s.fsafe.fresh <;> cases he : s.fsafe.expired now <;> simp

theorem State.pollCheck_fresh {s : State} (h : s.fsafe.fresh = true) (now : Time) :
    s.pollCheck now = s.clearFresh := by simp [State.pollCheck, h]

theorem State.pollCheck_force {s : State} {now : Time} (h : s.fsafe.fresh = false)
    (e : s.fsafe.expired now = true) : s.pollCheck now = s.enterFailsafe := by
  simp [State.pollCheck, h, e]

theorem State.pollCheck_hold {s : State} {now : Time} (h : s.fsafe.fresh = false)
    (e : s.fsafe.expired now = false) : s.pollCheck now = s := by
  simp [State.pollCheck, h, e]

@[simp] theorem State.pollCheck_params (s : State) (now : Time) : (s.pollCheck now).params = s.params := by
  rcases s.pollCheck_cases now with ⟨-, h⟩ | ⟨-, -, h⟩ | ⟨-, -, h⟩ <;> rw [h] <;> rfl

@[simp] theorem State.pollCheck_fsync (s : State) (now : Time) : (s.pollCheck now).fsync = s.fsync := by
  rcases s.pollCheck_cases now with ⟨-, h⟩ | ⟨-, -, h⟩ | ⟨-, -, h⟩ <;> rw [h] <;> rfl

@[simp] theorem State.pollCheck_input (s : State) (now : Time) : (s.pollCheck now).input = s.input := by
  rcases s.pollCheck_cases now with ⟨-, h⟩ | ⟨-, -, h⟩ | ⟨-, -, h⟩ <;> rw [h] <;> rfl

@[simp] theorem State.pollCheck_freeCount (s : State) (now : Time) :
    (s.pollCheck now).freeCount = s.freeCount := by
  rcases s.pollCheck_cases now with ⟨-, h⟩ | ⟨-, -, h⟩ | ⟨-, -, h⟩ <;> rw [h] <;> rfl

/-- A poll in the cycle of a packet only clears `fresh`. -/
theorem State.pollCheck_acceptPacket (s : State) (p : ControlPacket) (now later : Time) :
    (s.acceptPacket p now).pollCheck later = (s.acceptPacket p now).clearFresh :=
  State.pollCheck_fresh rfl later

/-! ### Reset -/

@[simp] theorem State.resetOn_fsync (s : State) : s.resetOn .fsync = s.resetFsync := rfl

@[simp] theorem State.resetOn_fsafe (s : State) : s.resetOn .fsafe = s.resetFsafe := rfl

@[simp] theorem State.resetOn_both (s : State) : s.resetOn .both = s.resetFsync.resetFsafe := rfl

/-! ### Sampling -/

theorem State.sample_nil {s : State} (h : s.input = []) : s.sample = none := by simp [State.sample, h]

theorem State.sample_cons {s : State} {e : Event} {rest : List Event} (h : s.input = e :: rest) :
    s.sample = some (e, { s with input := rest }) := by simp [State.sample, h]

/-! ### The rest of a cycle -/

/-- In the event of a unit that does not drive FSAFE's packet inputs, FSAFE does not sample. -/
theorem State.delivery_none {s : State} {e : Event} (h : e.linkedInputs s.params.link = none) :
    s.delivery e = none := by
  simp only [State.delivery, h, Option.map_none]

/-- In the event of the unit that drives them, FSAFE samples that unit's packet. -/
theorem State.delivery_linked {s : State} {e : Event} {inputs : FsafeInputs}
    (h : e.linkedInputs s.params.link = some inputs) : s.delivery e = some (decodeLinked s.upstream inputs) := by
  simp only [State.delivery, h, Option.map_some]

theorem State.upstream_radio {s : State} (h : s.params.link = .radio) : s.upstream = s.out.upk := by
  simp only [State.upstream, h]

theorem State.upstream_direct {s : State} (h : s.params.link = .direct) : s.upstream = s.out.pkt := by
  simp only [State.upstream, h]

end Sys2Proof.Machine
end

