-- ==== Sys2Proof/Laws/PerInstr.lean ====
section
/-! SUPPORT. Laws/PerInstr.lean: statements made per operation. -/

namespace Sys2Proof.Laws

/-- An operation's encoding fills its format's whole bytes. -/
def EncodeFillsFormat.Statement (i : Instr) : Prop := (encode i).length = i.format.byteCount

theorem EncodeFillsFormat.fsIdle :
    EncodeFillsFormat.Statement Instr.fsIdle := leBytes_length _ _

theorem EncodeFillsFormat.fsSof :
    EncodeFillsFormat.Statement Instr.fsSof := leBytes_length _ _

theorem EncodeFillsFormat.fsSkip (data : Byte) :
    EncodeFillsFormat.Statement (Instr.fsSkip data) := leBytes_length _ _

theorem EncodeFillsFormat.fsAppend (data : Byte) :
    EncodeFillsFormat.Statement (Instr.fsAppend data) := leBytes_length _ _

theorem EncodeFillsFormat.fsClose (data : Byte) :
    EncodeFillsFormat.Statement (Instr.fsClose data) := leBytes_length _ _

theorem EncodeFillsFormat.plIdle :
    EncodeFillsFormat.Statement Instr.plIdle := leBytes_length _ _

theorem EncodeFillsFormat.plUnpack (data : BitVec 40) :
    EncodeFillsFormat.Statement (Instr.plUnpack data) := leBytes_length _ _

theorem EncodeFillsFormat.plDrain (len : Byte) :
    EncodeFillsFormat.Statement (Instr.plDrain len) := leBytes_length _ _

theorem EncodeFillsFormat.fsfIdle :
    EncodeFillsFormat.Statement Instr.fsfIdle := leBytes_length _ _

theorem EncodeFillsFormat.fsfPkt (pkt : ControlPacket) (now : Time) :
    EncodeFillsFormat.Statement (Instr.fsfPkt pkt now) := leBytes_length _ _

theorem EncodeFillsFormat.fsfPoll (now : Time) :
    EncodeFillsFormat.Statement (Instr.fsfPoll now) := leBytes_length _ _

theorem EncodeFillsFormat.fsfPktPoll (pkt : ControlPacket) (now : Time) :
    EncodeFillsFormat.Statement (Instr.fsfPktPoll pkt now) := leBytes_length _ _

theorem EncodeFillsFormat.reset (line : ResetLine) :
    EncodeFillsFormat.Statement (Instr.reset line) := leBytes_length _ _

theorem EncodeFillsFormat.chk (span : List Byte) :
    EncodeFillsFormat.Statement (Instr.chk span) := leBytes_length _ _

theorem EncodeFillsFormat.plPack (pkt : ControlPacket) :
    EncodeFillsFormat.Statement (Instr.plPack pkt) := leBytes_length _ _

theorem EncodeFillsFormat.axMap (raw : AxisWord) :
    EncodeFillsFormat.Statement (Instr.axMap raw) := leBytes_length _ _

theorem EncodeFillsFormat.axMirror (angle : Byte) :
    EncodeFillsFormat.Statement (Instr.axMirror angle) := leBytes_length _ _

theorem EncodeFillsFormat.axMix (axisX axisY : AxisWord) :
    EncodeFillsFormat.Statement (Instr.axMix axisX axisY) := leBytes_length _ _

theorem EncodeFillsFormat.frame (bytes : BitVec 56) :
    EncodeFillsFormat.Statement (Instr.frame bytes) := leBytes_length _ _

theorem EncodeFillsFormat.payload (bytes : BitVec 40) :
    EncodeFillsFormat.Statement (Instr.payload bytes) := leBytes_length _ _

end Sys2Proof.Laws
end

