-- ==== Sys2Proof/Laws/Step.lean ====
section
/-! SUPPORT. Laws/Step.lean: what a step is, and once, per unit, what an operation can do to it. -/

namespace Sys2Proof.Machine

/-! ### Steps and runs -/

theorem step_nil {s : State} (h : s.input = []) : step s = .next s.quiet := by
  simp only [step, State.sample_nil h]

/-- A step performs the event's operation, then the rest of its cycle. -/
theorem step_cons {s : State} {e : Event} {rest : List Event} (h : s.input = e :: rest) :
    step s = finishCycle e (exec (decodeEvent s.decodeCtx e) { s with input := rest }) := by
  simp only [step, State.sample_cons h]

theorem successor_of_step {s t : State} (h : step s = .next t) : s.successor = t := by
  simp only [State.successor, h]

@[simp] theorem after_zero (s : State) : State.after 0 s = s := rfl

@[simp] theorem after_succ (n : Nat) (s : State) : State.after (n + 1) s = State.after n s.successor := rfl

@[simp] theorem observe_zero (s : State) : State.observe 0 s = [] := rfl

@[simp] theorem observe_succ (n : Nat) (s : State) :
    State.observe (n + 1) s = s.successor.observation :: State.observe n s.successor := rfl

@[simp] theorem observe_length (n : Nat) (s : State) : (State.observe n s).length = n := by
  induction n generalizing s with
  | zero => rfl
  | succ n ih => simp [ih]

theorem after_add (m n : Nat) (s : State) : State.after (m + n) s = State.after n (State.after m s) := by
  induction m generalizing s with
  | zero => simp
  | succ m ih => rw [Nat.succ_add, after_succ, after_succ, ih]

/-! ### The rest of a cycle -/

/-- Where FSAFE does not sample the cycle, an event is its own operation and nothing else. -/
theorem finishCycle_alone {t : State} {e : Event} (h : e.linkedInputs t.params.link = none) :
    finishCycle e (.next t) = .next t := by
  simp only [finishCycle, State.delivery_none h]

/-- Where it does, FSAFE's operation follows, and the outputs of both are shown. -/
theorem finishCycle_linked {t u : State} {e : Event} {inputs : FsafeInputs}
    (h : e.linkedInputs t.params.link = some inputs) (hu : exec (decodeLinked t.upstream inputs) t = .next u) :
    finishCycle e (.next t) = .next (u.withOutputsOf t) := by
  simp only [finishCycle, State.delivery_linked h, hu]

/-- Every operation answers a next state. -/
theorem exec_next (i : Instr) (s : State) : ∃ t, exec i s = .next t := by
  cases i
  case fsClose d =>
    simp only [exec, execFsClose]
    split <;> exact ⟨_, rfl⟩
  all_goals exact ⟨_, rfl⟩

/-- Everything that a step can do: with nothing presented, nothing; else the event's operation, which answers some `u`, and
then either nothing more, or FSAFE's operation on the packet that the event drives, with the outputs of both. -/
theorem step_cases {s t : State} (h : step s = .next t) :
    (s.input = [] ∧ t = s.quiet) ∨
    ∃ e rest u, s.input = e :: rest ∧ exec (decodeEvent s.decodeCtx e) { s with input := rest } = .next u ∧
      ((e.linkedInputs u.params.link = none ∧ t = u) ∨
       ∃ inputs v, e.linkedInputs u.params.link = some inputs ∧
        exec (decodeLinked u.upstream inputs) u = .next v ∧ t = v.withOutputsOf u) := by
  rcases hi : s.input with _ | ⟨e, rest⟩
  · rw [step_nil hi] at h; cases h; exact .inl ⟨rfl, rfl⟩
  · rw [step_cons hi] at h
    obtain ⟨u, hu⟩ := exec_next (decodeEvent s.decodeCtx e) { s with input := rest }
    rw [hu] at h
    refine .inr ⟨e, rest, u, rfl, hu, ?_⟩
    rcases he : e.linkedInputs u.params.link with _ | inputs
    · rw [finishCycle_alone he] at h; cases h
      exact .inl ⟨rfl, rfl⟩
    · obtain ⟨v, hv⟩ := exec_next (decodeLinked u.upstream inputs) u
      rw [finishCycle_linked he hv] at h; cases h
      exact .inr ⟨inputs, v, rfl, hv, rfl⟩

/-- The operation that the wire selects is one of FSAFE's. -/
theorem decodeLinked_cases (upstream : Option ControlPacket) (inputs : FsafeInputs) :
    (inputs.rst = true ∧ decodeLinked upstream inputs = .reset .fsafe) ∨
    (inputs.rst = false ∧
      ((∃ q, upstream = some q ∧ inputs.poll = false ∧ decodeLinked upstream inputs = .fsfPkt q inputs.now) ∨
       (∃ q, upstream = some q ∧ inputs.poll = true ∧ decodeLinked upstream inputs = .fsfPktPoll q inputs.now) ∨
       (upstream = none ∧ inputs.poll = true ∧ decodeLinked upstream inputs = .fsfPoll inputs.now) ∨
       (upstream = none ∧ inputs.poll = false ∧ decodeLinked upstream inputs = .fsfIdle))) := by
  rcases inputs with ⟨rst, poll, now⟩
  cases rst <;> cases poll <;> cases upstream <;> simp [decodeLinked, linkedWord, decodeCtlw]

theorem decodeLinked_reset {inputs : FsafeInputs} (h : inputs.rst = true) (upstream : Option ControlPacket) :
    decodeLinked upstream inputs = .reset .fsafe := by
  simp only [decodeLinked, h, if_true]

theorem decodeLinked_packet (q : ControlPacket) (now : Time) :
    decodeLinked (some q) ⟨false, false, now⟩ = .fsfPkt q now := by
  simp [decodeLinked, linkedWord, decodeCtlw]

theorem decodeLinked_packet_poll (q : ControlPacket) (now : Time) :
    decodeLinked (some q) ⟨false, true, now⟩ = .fsfPktPoll q now := by
  simp [decodeLinked, linkedWord, decodeCtlw]

theorem decodeLinked_poll (now : Time) : decodeLinked none ⟨false, true, now⟩ = .fsfPoll now := by
  simp [decodeLinked, linkedWord, decodeCtlw]

theorem decodeLinked_idle (now : Time) : decodeLinked none ⟨false, false, now⟩ = .fsfIdle := by
  simp [decodeLinked, linkedWord, decodeCtlw]

/-! ### What an operation can do -/

/-- No operation touches what the environment will present. -/
theorem exec_input {i : Instr} {s t : State} (h : exec i s = .next t) : t.input = s.input := by
  cases i
  case fsClose =>
    simp only [exec, execFsClose] at h
    split at h <;> cases h <;> simp
  case reset line => cases line <;> cases h <;> rfl
  all_goals cases h; simp

/-- A step consumes one presented event. -/
theorem step_input {s t : State} {e : Event} {rest : List Event} (hi : s.input = e :: rest)
    (h : step s = .next t) : t.input = rest := by
  rcases step_cases h with ⟨h0, -⟩ | ⟨e', rest', u, h1, hu, h2⟩
  · rw [hi] at h0; cases h0
  · rw [hi] at h1; cases h1
    have hu' : u.input = rest := exec_input hu
    rcases h2 with ⟨-, rfl⟩ | ⟨inputs, v, -, hv, rfl⟩
    · exact hu'
    · exact (exec_input hv).trans hu'

/-- A run of several events is the first one's step, then the run of the rest. -/
theorem runEvents_cons {s t : State} {e : Event} {es : List Event}
    (h : step { s with input := e :: es } = .next t) : s.runEvents (e :: es) = t.runEvents es := by
  have hi : t.input = es := step_input rfl h
  simp only [State.runEvents, List.length_cons, after_succ, successor_of_step h]
  subst hi; rfl

theorem observeEvents_cons {s t : State} {e : Event} {es : List Event}
    (h : step { s with input := e :: es } = .next t) :
    s.observeEvents (e :: es) = t.observation :: t.observeEvents es := by
  have hi : t.input = es := step_input rfl h
  simp only [State.observeEvents, List.length_cons, observe_succ, successor_of_step h]
  subst hi; rfl

/-- Everything that an operation can do to FSAFE (and it leaves the instantiation): a packet, a packet with a poll, a poll,
a reset of FSAFE, or nothing. -/
theorem exec_fsafe_cases {i : Instr} {s t : State} (h : exec i s = .next t) :
    t.params = s.params ∧
    ((∃ q now, i = .fsfPkt q now ∧ t.fsafe = (s.acceptPacket q now).fsafe) ∨
     (∃ q now, i = .fsfPktPoll q now ∧ t.fsafe = (s.acceptPacket q now).clearFresh.fsafe) ∨
     (∃ now, i = .fsfPoll now ∧ t.fsafe = (s.pollCheck now).fsafe) ∨
     (∃ line, i = .reset line ∧ line ≠ .fsync ∧
        t.fsafe = Fsafe.resetWith s.params.nch (Config.unsetTime s.freeCount)) ∨
     (acceptedAxes i = none ∧ (∀ now, i ≠ .fsfPoll now) ∧ t.fsafe = s.fsafe)) := by
  cases i
  case fsClose =>
    simp only [exec, execFsClose] at h
    split at h <;> cases h <;> simp [acceptedAxes]
  case reset line => cases line <;> cases h <;> simp [acceptedAxes]
  case fsfPoll now =>
    cases h
    refine ⟨by simp, .inr (.inr (.inl ⟨now, rfl, ?_⟩))⟩
    rcases s.pollCheck_cases now with ⟨a, b⟩ | ⟨a, c, b⟩ | ⟨a, c, b⟩
    · rw [b, State.pollCheck_fresh (s := s.quiet) a]; rfl
    · rw [b, State.pollCheck_force (s := s.quiet) a c]; rfl
    · rw [b, State.pollCheck_hold (s := s.quiet) a c]; rfl
  case fsfPktPoll q now =>
    cases h
    refine ⟨by simp, .inr (.inl ⟨q, now, rfl, ?_⟩)⟩
    rw [State.pollCheck_acceptPacket]; rfl
  all_goals cases h; simp [acceptedAxes]

/-- Everything that an operation can do to FSYNC: open a frame, store a byte, return to scanning, or nothing. -/
theorem exec_fsync_cases {i : Instr} {s t : State} (h : exec i s = .next t) :
    (i = .fsSof ∧ t.fsync = s.openFrame.fsync) ∨
    (∃ b, i = .fsAppend b ∧ t.fsync = (s.storeByte b).fsync) ∨
    (((∃ b, i = .fsClose b) ∨ ∃ line, i = .reset line ∧ line ≠ .fsafe) ∧ t.fsync = Fsync.reset) ∨
    t.fsync = s.fsync := by
  cases i
  case fsClose =>
    simp only [exec, execFsClose] at h
    split at h <;> cases h <;> simp
  case reset line => cases line <;> cases h <;> simp
  all_goals cases h; simp

/-- FS.APPEND is selected in a frame only, with five bytes held at most. -/
theorem fsAppend_selected {ctx : DecodeCtx} {e : Event} {b : Byte} (h : decodeEvent ctx e = .fsAppend b) :
    ctx.inFrame = true ∧ ctx.fill.toNat ≤ 5 := by
  have ctl : ∀ w, decodeCtlw w ≠ .fsAppend b := by
    intro w; unfold decodeCtlw; split <;> simp
  cases e
  case rx rst w inputs =>
    cases rst <;> simp only [decodeEvent] at h
    · simp only [Bool.false_eq_true, if_false, decodeRxw] at h
      split_ifs at h with h1 h2 h3 h4
      exact ⟨h2, h3⟩
    · simp at h
  case pl w inputs => simp only [decodeEvent, decodePlw] at h; split_ifs at h
  case ctl rst w => cases rst <;> simp [decodeEvent, ctl] at h
  all_goals simp [decodeEvent] at h

/-! ### What a step can do to each unit -/

/-- What the environment will present changes nothing of an operation. -/
theorem exec_with_input {i : Instr} {s t : State} (h : exec i s = .next t) (es : List Event) :
    exec i { s with input := es } = .next { t with input := es } := by
  cases i
  case fsClose d =>
    simp only [exec, execFsClose] at h ⊢
    split at h
    · rename_i hc
      cases h
      rw [if_pos hc]
      rcases hl : s.params.link with _ | _ <;> simp [State.emitPacket, hl] <;> rfl
    · rename_i hc; cases h; rw [if_neg hc]; rfl
  case reset line => cases line <;> cases h <;> rfl
  case fsfPoll now =>
    cases h
    rcases s.quiet.pollCheck_cases now with ⟨a, b⟩ | ⟨a, c, b⟩ | ⟨a, c, b⟩
    · rw [b]; exact congrArg _ (State.pollCheck_fresh (s := { s.quiet with input := es }) a now)
    · rw [b]; exact congrArg _ (State.pollCheck_force (s := { s.quiet with input := es }) a c)
    · rw [b]; exact congrArg _ (State.pollCheck_hold (s := { s.quiet with input := es }) a c)
  case fsfPktPoll q now =>
    cases h
    simp only [exec, execFsfPktPoll, State.pollCheck_acceptPacket]; rfl
  all_goals cases h; rfl

/-- The event of a unit that drives FSAFE's packet inputs leaves FSAFE itself: only the rest of its cycle reaches it. -/
theorem exec_linked_event {e : Event} {link : Link} {inputs : FsafeInputs} {ctx : DecodeCtx} {s t : State}
    (he : e.linkedInputs link = some inputs) (h : exec (decodeEvent ctx e) s = .next t) : t.fsafe = s.fsafe := by
  cases e <;> simp only [Event.linkedInputs, reduceCtorEq] at he
  case rx rst w i =>
    cases rst
    · simp only [decodeEvent, Bool.false_eq_true, if_false, decodeRxw] at h
      split_ifs at h
      · cases h; rfl
      · simp only [exec, execFsClose] at h; split at h <;> cases h <;> simp
      · cases h; rfl
      · cases h; rfl
      · cases h; rfl
    · cases h; rfl
  case pl w i =>
    simp only [decodeEvent, decodePlw] at h
    split_ifs at h <;> cases h <;> rfl

/-- Everything that a step can do to FSAFE: what `fsafeOperation` does to it, in the same instantiation. -/
theorem step_fsafe {s t : State} {e : Event} {rest : List Event} (hi : s.input = e :: rest)
    (h : step s = .next t) : t.params = s.params ∧ ∃ s₁ t₁, s₁.params = s.params ∧ s₁.fsafe = s.fsafe ∧
      exec (s.fsafeOperation e) s₁ = .next t₁ ∧ t.fsafe = t₁.fsafe := by
  rcases step_cases h with ⟨h0, -⟩ | ⟨e', rest', u, h1, hu, h2⟩
  · rw [hi] at h0; cases h0
  · rw [hi] at h1; cases h1
    have hp : u.params = s.params := (exec_fsafe_cases hu).1
    have hop : s.fsafeOperation e = (u.delivery e).getD (decodeEvent s.decodeCtx e) := by
      have hs : exec (decodeEvent s.decodeCtx e) s = .next { u with input := s.input } := exec_with_input hu s.input
      simp only [State.fsafeOperation, hs]; rfl
    rcases h2 with ⟨hd, rfl⟩ | ⟨inputs, v, hd, hv, rfl⟩
    · rw [State.delivery_none hd] at hop
      exact ⟨hp, { s with input := rest }, t, rfl, rfl, by rw [hop]; exact hu, rfl⟩
    · have hv' : v.params = s.params := ((exec_fsafe_cases hv).1).trans hp
      rw [State.delivery_linked hd] at hop
      exact ⟨hv', u, v, hp, (exec_linked_event hd hu).trans rfl, by rw [hop]; exact hv, rfl⟩

/-- The operation on the wire leaves FSYNC. -/
theorem exec_decodeLinked_fsync {upstream : Option ControlPacket} {inputs : FsafeInputs} {s t : State}
    (h : exec (decodeLinked upstream inputs) s = .next t) : t.fsync = s.fsync := by
  rcases decodeLinked_cases upstream inputs with
    ⟨-, e⟩ | ⟨-, ⟨q, -, -, e⟩ | ⟨q, -, -, e⟩ | ⟨-, -, e⟩ | ⟨-, -, e⟩⟩ <;> rw [e] at h <;> cases h <;> simp

/-- Everything that a step can do to FSYNC: what the event's own operation does to it. -/
theorem step_fsync {s t : State} {e : Event} {rest : List Event} (hi : s.input = e :: rest)
    (h : step s = .next t) :
    ∃ u, exec (decodeEvent s.decodeCtx e) { s with input := rest } = .next u ∧ t.fsync = u.fsync := by
  rcases step_cases h with ⟨h0, -⟩ | ⟨e', rest', u, h1, hu, h2⟩
  · rw [hi] at h0; cases h0
  · rw [hi] at h1; cases h1
    rcases h2 with ⟨-, rfl⟩ | ⟨inputs, v, -, hv, rfl⟩
    · exact ⟨t, hu, rfl⟩
    · exact ⟨u, hu, (State.withOutputsOf_fsync v u).trans (exec_decodeLinked_fsync hv)⟩

end Sys2Proof.Machine
end

