-- ==== Sys2Proof/Tests/Slice0.lean ====
section
/-! SUPPORT. Tests/Slice0.lean: words written out from the encodings of 30_encoding.md, single events of the vectors of
95_test_vectors.md (T-...), and for every statement with hypotheses a state and operands that meet them together. -/

namespace Sys2Proof.Tests

open Sys2Proof.Machine

/-! ### Helpers -/

/-- Reset, but for FSYNC's state `(in_frame, fill, buf)`. -/
def fsyncAt (inFrame : Bool) (fill : BitVec 3) (buf : List Byte) : State :=
  { State.reset with fsync := ⟨inFrame, fill, buf⟩ }

/-- Reset, but for FSAFE's state `(link_state, ts_valid, last_ts, fresh, servo_angle)`. -/
def fsafeAt (l : LinkState) (tsValid : Bool) (lastTs : Time) (fresh : Bool) (angles : List Byte) : State :=
  { State.reset with fsafe := ⟨l, tsValid, lastTs, fresh, angles⟩ }

/-- The state after one event presented to a state. -/
def after (s : State) (e : Event) : State := (s.present e).successor

/-- The packet of 95_test_vectors.md T-FR-2: 1000, -1000, 1. -/
def pktA : ControlPacket := ⟨0x03E8, 0xFC18, 1⟩

/-- FSYNC with the six bytes of T-FS-3. -/
def fullA : State := fsyncAt true 6 [0xAA, 0xE8, 0x03, 0x18, 0xFC, 0x01]

/-- FSAFE of T-FSF-5: Active, last packet at 5000. -/
def activeA : State := fsafeAt .active true 5000 false [91, 89, 89, 89, 89]

/-! ### WellFormed: each check refuses an ill-formed term -/

theorem test_wf_refuses_skip_of_sentinel : (Instr.fsSkip 0xAA).wf = false := by decide

theorem test_wf_refuses_drain_of_five : (Instr.plDrain 5).wf = false := by decide

theorem test_wf_refuses_short_span : (Instr.chk [1, 2, 3, 4]).wf = false := by decide

theorem test_wf_refuses_frame_without_sentinel : (Instr.frame 0x0001FC1803E8AB).wf = false := by decide

theorem test_wf_accepts_others :
    ([Instr.fsSkip 0x55, .plDrain 6, .chk [1, 2, 3, 4, 5], .frame 0x0001FC1803E8AA].all Instr.wf) = true := by decide

/-! ### Decode: words written out from the spec's encodings -/

/-- R76: `rx_valid` (bit 8) 0. -/
theorem test_decode_fsIdle : decodeRxw true 3 0b010101010#9 = .fsIdle := by decide

/-- R76: `rx_valid` 1, byte 0xAA, scanning. -/
theorem test_decode_fsSof : decodeRxw false 0 0b110101010#9 = .fsSof := by decide

/-- R76: `rx_valid` 1, byte 0x55, scanning (T-FS-1). -/
theorem test_decode_fsSkip : decodeRxw false 0 0b101010101#9 = .fsSkip 0x55 := by decide

/-- R76, R79: the sentinel in a frame, at `fill` 5 (the boundary) and 3 (T-FS-6). -/
theorem test_decode_fsAppend :
    decodeRxw true 5 0b110101010#9 = .fsAppend 0xAA ∧ decodeRxw true 3 0b110101010#9 = .fsAppend 0xAA := by decide

/-- R76: `fill` 6 (T-FS-7). -/
theorem test_decode_fsClose : decodeRxw true 6 0b110100111#9 = .fsClose 0xA7 := by decide

/-- R77: `pl_valid` (bit 48) 0. -/
theorem test_decode_plIdle : decodePlw 0x0050203040506#49 = .plIdle := by decide

/-- R77: T-PL-5. -/
theorem test_decode_plUnpack : decodePlw 0x10501FC1803E8#49 = .plUnpack 0x01FC1803E8 := by decide

/-- R77: T-PL-7, T-PL-9. -/
theorem test_decode_plDrain :
    decodePlw 0x10601FC1803E8#49 = .plDrain 6 ∧ decodePlw 0x1000000000000#49 = .plDrain 0 := by decide

/-- R78: T-FSF-4. -/
theorem test_decode_fsfIdle : decodeCtlw 0x0000000000000001518#74 = .fsfIdle := by decide

/-- R78: T-FSF-2. -/
theorem test_decode_fsfPkt : decodeCtlw 0x103E8FC180100001388#74 = .fsfPkt pktA 5000 := by decide

/-- R78: T-FSF-7. -/
theorem test_decode_fsfPoll : decodeCtlw 0x20000000000000016A9#74 = .fsfPoll 5801 := by decide

/-- R78: T-FSF-12. -/
theorem test_decode_fsfPktPoll : decodeCtlw 0x300007FFF0000002328#74 = .fsfPktPoll ⟨0, 0x7FFF, 0⟩ 9000 := by decide

/-- R82: `rst` 1, alone and over an RXW word. -/
theorem test_decode_reset :
    decodeBytes (.rst .fsafe) DecodeCtx.afterReset [0x01] = .ok (.reset .fsafe) ∧
    decodeEvent DecodeCtx.afterReset (.rx true 0x1AA#9 .idle) = .reset .fsync := by decide

/-- R81: byte `i` of the span in bits `[8i+7:8i]` (T-CHK-3). -/
theorem test_decode_chk :
    decodeEvent DecodeCtx.afterReset (.chk5 0x01FC1803E8#40) = .chk [0xE8, 0x03, 0x18, 0xFC, 0x01] := by decide

/-- R81: T-PL-1. -/
theorem test_decode_plPack : decodeEvent DecodeCtx.afterReset (.cp 0x03E8FC1801#40) = .plPack pktA := by decide

/-- R81. -/
theorem test_decode_axMap : decodeEvent DecodeCtx.afterReset (.ax 0x8000#16) = .axMap 0x8000 := by decide

/-- R81. -/
theorem test_decode_axMirror : decodeEvent DecodeCtx.afterReset (.ang 0x5B#8) = .axMirror 91 := by decide

/-- R81: axisX in the high half. -/
theorem test_decode_axMix :
    decodeEvent DecodeCtx.afterReset (.xy 0x03E8FC18#32) = .axMix 0x03E8 0xFC18 := by decide

/-- R70: T-FR-2 as bytes, and rejected without its sentinel. -/
theorem test_decode_frame :
    decodeBytes .frame56 DecodeCtx.afterReset [0xAA, 0xE8, 0x03, 0x18, 0xFC, 0x01, 0x00] =
      .ok (.frame 0x0001FC1803E8AA) ∧
    decodeBytes .frame56 DecodeCtx.afterReset [0xAB, 0xE8, 0x03, 0x18, 0xFC, 0x01, 0x00] =
      .error .noSentinel := by decide

/-- R72. -/
theorem test_decode_payload :
    decodeBytes .payload40 DecodeCtx.afterReset [0xE8, 0x03, 0x18, 0xFC, 0x01] =
      .ok (.payload 0x01FC1803E8) := by decide

/-- R78, R9: CTLW of T-FSF-2, byte by byte. -/
theorem test_decode_bytes_ctlw :
    decodeBytes .ctlw DecodeCtx.afterReset [0x88, 0x13, 0x00, 0x00, 0x01, 0x18, 0xFC, 0xE8, 0x03, 0x01] =
      .ok (.fsfPkt pktA 5000) := by decide

/-- Bytes that are no word of the port are rejected by name. -/
theorem test_decode_bytes_rejects :
    decodeBytes .rxw DecodeCtx.afterReset [0xAA] = .error .byteCount ∧
    decodeBytes .rxw DecodeCtx.afterReset [0xAA, 0x02] = .error .bitsAboveWidth ∧
    decodeBytes (.rst .both) DecodeCtx.afterReset [0x00] = .error .rstLow := by decide

/-- The encoder against T-PL-5's word, least significant byte first. -/
theorem test_encode_plUnpack : encode (.plUnpack 0x01FC1803E8) = [0xE8, 0x03, 0x18, 0xFC, 0x01, 0x05, 0x01] := by
  decide

/-- R73's worked example. -/
theorem test_payload_encode : payloadBytes ⟨0xFFFF, 0x0001, 0⟩ = [0xFF, 0xFF, 0x01, 0x00, 0x00] := by decide

/-- R74's worked example (T-FR-2). -/
theorem test_frame_encode : frameEncode pktA = [0xAA, 0xE8, 0x03, 0x18, 0xFC, 0x01, 0x00] := by decide

/-! ### The host's table words -/

theorem test_table_words :
    decodeTableWord 16 0x1AA = some .fsSof ∧ decodeTableWord 56 0x10501FC1803E8 = some (.plUnpack 0x01FC1803E8) ∧
    decodeTableWord 80 0x103E8FC180100001388 = some (.fsfPkt pktA 5000) ∧
    decodeTableWord 8 1 = some (.reset .both) ∧ decodeTableWord 24 0 = none := by decide

theorem test_fetch_word : ((State.reset.withFetchWord 16 0x1AA).successor).fsync = ⟨true, 1, [0xAA]⟩ := by decide

/-! ### One event -/

/-- T-FS-5. -/
theorem test_fsIdle : (after (fsyncAt true 3 [0xAA, 0x2C, 0x01]) (.rx false 0x0FF .idle)).fsync =
    ⟨true, 3, [0xAA, 0x2C, 0x01]⟩ := by decide

/-- T-FS-1. -/
theorem test_fsSkip : (after State.reset (.rx false 0x155 .idle)).out.fsDiag.code = 1 := by decide

/-- T-FS-2. -/
theorem test_fsSof : (after State.reset (.rx false 0x1AA .idle)).fsync = ⟨true, 1, [0xAA]⟩ := by decide

/-- T-FS-6. -/
theorem test_fsAppend : (after (fsyncAt true 3 [0xAA, 0x2C, 0x01]) (.rx false 0x1AA .idle)).fsync =
    ⟨true, 4, [0xAA, 0x2C, 0x01, 0xAA]⟩ := by decide

/-- T-FS-4, with the payload that PL.PACK sends (P1, byte 9). -/
theorem test_fsClose_match : (after fullA (.rx false 0x100 .idle)).out.pkt = some pktA ∧
    (after fullA (.rx false 0x100 .idle)).out.tx = some 0x01FC1803E8 ∧
    (after fullA (.rx false 0x100 .idle)).fsync = ⟨false, 0, []⟩ := by decide

/-- T-FS-3. -/
theorem test_fsClose_mismatch : (after fullA (.rx false 0x101 .idle)).out.pkt = none ∧
    (after fullA (.rx false 0x101 .idle)).out.fsDiag.code = 2 ∧
    (after fullA (.rx false 0x101 .idle)).fsync = ⟨false, 0, []⟩ := by decide

/-- T-PL-10. -/
theorem test_plIdle : (after State.reset (.pl 0x0051122334455 .idle)).out = Outputs.idle := by decide

/-- T-PL-6, T-PL-11. -/
theorem test_plUnpack : (after State.reset (.pl 0x105007FFF8000 .idle)).out.upk = some ⟨0x8000, 0x7FFF, 0⟩ ∧
    (after State.reset (.pl 0x105AAAAAAAAAA .idle)).out.upk = some ⟨0xAAAA, 0xAAAA, 170⟩ := by decide

/-- T-PL-7, T-PL-8. -/
theorem test_plDrain : (after State.reset (.pl 0x10601FC1803E8 .idle)).out.plDiag.code = 3 ∧
    (after State.reset (.pl 0x1040004030201 .idle)).out.upk = none := by decide

/-- T-PL-2. -/
theorem test_plPack : (after State.reset (.cp 0x80007FFF00)).out.tx = some 0x007FFF8000 := by decide

/-- T-CHK-4, T-CHK-9, T-CHK-1. -/
theorem test_chk : (after State.reset (.chk5 0xFFFFFFFFFF)).out.fn = some (.sum 0xFB) ∧
    chk [0xAA, 0x00, 0xAA, 0xA9, 0xAA] = 0xA7 ∧ chk [] = 0 := by decide

/-- T-AX-3, T-AX-5, T-AX-8, T-AX-12. -/
theorem test_axMap : (after State.reset (.ax 0x4000)).out.fn = some (.angle 112) ∧
    mapAxis 45 0xFFFF = 90 ∧ mapAxis 45 729 = 91 ∧ mapAxis 45 0x8000 = 45 := by decide

/-- T-AX-25 to T-AX-27, T-AX-29. -/
theorem test_axMap_clamp : mapAxis 90 32766 = 179 ∧ mapAxis 120 32767 = 180 ∧ mapAxis 120 0x8001 = 0 ∧
    mapAxis 255 16384 = 180 := by decide

/-- T-AX-34, and R143's operand above 180. -/
theorem test_axMirror : (after State.reset (.ang 91)).out.fn = some (.mirrored 89) ∧ mirror 200 = 0 := by decide

/-- T-AX-41. -/
theorem test_axMix : (after State.reset (.xy 0x03E8FC18)).out.fn = some (.channels [91, 89, 89, 89, 89]) := by decide

/-- T-FSF-4. -/
theorem test_fsfIdle : (after activeA (.ctl false 0x0000000000000001518)).fsafe = activeA.fsafe := by decide

/-- T-FSF-2, T-FSF-10. -/
theorem test_fsfPkt : (after State.reset (.ctl false 0x103E8FC180100001388)).fsafe =
      ⟨.active, true, 5000, true, [91, 89, 89, 89, 89]⟩ ∧
    (after State.reset (.ctl false 0x180007FFF0000001770)).fsafe.servoAngle = [45, 135, 135, 135, 135] := by decide

/-- T-FSF-6, T-FSF-7: 800 holds, 801 forces. -/
theorem test_fsfPoll_boundary : (after activeA (.ctl false 0x20000000000000016A8)).fsafe = activeA.fsafe ∧
    (after activeA (.ctl false 0x20000000000000016A9)).fsafe =
      ⟨.failsafe, true, 5000, false, [90, 90, 90, 90, 90]⟩ := by decide

/-- T-FSF-13, T-FSF-16. -/
theorem test_fsfPoll_fresh_and_wrap :
    (after (fsafeAt .active true 1000 true [91, 89, 89, 89, 89]) (.ctl false 0x20000000000000007D0)).fsafe =
      ⟨.active, true, 1000, false, [91, 89, 89, 89, 89]⟩ ∧
    (after (fsafeAt .active true 0xFFFFFF00 false [90, 90, 90, 90, 90])
      (.ctl false 0x2000000000000000221)).fsafe.linkState = .failsafe := by decide

/-- T-FSF-12. -/
theorem test_fsfPktPoll :
    (after (fsafeAt .failsafe true 6001 false [90, 90, 90, 90, 90]) (.ctl false 0x300007FFF0000002328)).fsafe =
      ⟨.active, true, 9000, false, [90, 90, 135, 135, 135]⟩ := by decide

/-- T-RST-2: reset wins over the byte presented with it. -/
theorem test_reset_fsync : (after fullA (.rx true 0x100 .idle)).fsync = ⟨false, 0, []⟩ ∧
    (after fullA (.rx true 0x100 .idle)).out = Outputs.idle := by decide

/-- T-RST-4: reset wins over the packet presented with it, and FSYNC is left. -/
theorem test_reset_fsafe : (after activeA (.ctl true 0x103E8FC180100000007)).fsafe.linkState = .failsafe ∧
    (after activeA (.ctl true 0x103E8FC180100000007)).fsafe.servoAngle = [90, 90, 90, 90, 90] ∧
    (after activeA (.ctl true 0x103E8FC180100000007)).out.servoUpd = false := by decide

/-- T-FR-2 and the same with a wrong checksum. -/
theorem test_frame : (after State.reset (.frame56 0x0001FC1803E8)).out.fn = some (.framePacket pktA true) ∧
    (after State.reset (.frame56 0x0101FC1803E8)).out.fn = some (.framePacket pktA false) := by decide

/-- R73. -/
theorem test_payload : (after State.reset (.payload40 0x01FC1803E8)).out.fn = some (.payloadPacket pktA) := by decide

/-- R118: the accepted sentinels of P2's stream. -/
theorem test_accepted_sentinels : acceptedSentinels 0 0
    [0xAA, 0xAA, 0x00, 0x10, 0x00, 0x20, 0x00, 0x30, 0xAA, 0x00, 0x10, 0x00, 0x20, 0x00, 0x30] = [0, 8] := by decide

/-- E3, R188(e): on one chip the packet of FS.CLOSE is FSAFE's in the same event, and one observation shows both. -/
theorem test_direct_delivery :
    (after (fullA.linkAs .direct) (.rx false 0x100 ⟨false, false, 5000⟩)).fsafe =
      ⟨.active, true, 5000, true, [91, 89, 89, 89, 89]⟩ ∧
    (after (fullA.linkAs .direct) (.rx false 0x100 ⟨false, false, 5000⟩)).out =
      { Outputs.idle with pkt := some pktA, servoUpd := true } := by decide

/-- P4's payload PLD at 41, in the receiving node: unpacked and accepted in the same event. -/
theorem test_radio_delivery :
    (after State.reset (.pl 0x10501FC1803E8 ⟨false, false, 41⟩)).fsafe =
      ⟨.active, true, 41, true, [91, 89, 89, 89, 89]⟩ ∧
    (after State.reset (.pl 0x10501FC1803E8 ⟨false, false, 41⟩)).out =
      { Outputs.idle with upk := some pktA, servoUpd := true } := by decide

/-- T-FSF-7 on the wire, in the cycle of a payload of six bytes: a bare poll forces. -/
theorem test_radio_poll :
    (after activeA (.pl 0x10601FC1803E8 ⟨false, true, 5801⟩)).fsafe = ⟨.failsafe, true, 5000, false, [90, 90, 90, 90, 90]⟩ ∧
    (after activeA (.pl 0x10601FC1803E8 ⟨false, true, 5801⟩)).out =
      { Outputs.idle with plDiag := .badLen, servoUpd := true } := by decide

/-- E4 on one chip, with a poll that forces: the wrong checksum brings no packet. -/
theorem test_direct_mismatch :
    (after (fullA.linkAs .direct) (.rx false 0x101 ⟨false, true, 0⟩)).fsafe = fullA.fsafe ∧
    (after (fullA.linkAs .direct) (.rx false 0x101 ⟨false, true, 0⟩)).out =
      { Outputs.idle with fsDiag := .badSum, servoUpd := true } := by decide

/-- P3, events 1 and 3: the link state and the angles are observed. -/
theorem test_observation :
    (State.reset.observeEvents [.ctl false 0x2000000000000000000, .ctl false 0x103E8FC180100001388]).map
      (fun o => (o.failsafe, o.servoAngle, o.out.servoUpd)) =
      [(true, [90, 90, 90, 90, 90], true), (false, [91, 89, 89, 89, 89], true)] := by decide

/-- R6: the checksum byte is the last of the frame, right after the covered ones. -/
theorem test_frame_constants : Config.chkPos + 1 = Config.frameLen ∧ Config.chkLast + 1 = Config.chkPos ∧
    Config.chkIndices.length = Config.payloadLen.toNat := by decide

/-! ### Witnesses: states and operands that meet each statement's hypotheses -/

theorem witness_append_first : (fsyncAt true 1 [0xAA]).fsync.inFrame = true ∧
    1 ≤ (fsyncAt true 1 [0xAA]).fsync.fill.toNat ∧ (fsyncAt true 1 [0xAA]).fsync.fill.toNat ≤ 5 ∧
    (fsyncAt true 1 [0xAA]).fsync.buf.length = (fsyncAt true 1 [0xAA]).fsync.fill.toNat := by decide

theorem witness_append_last : (fsyncAt true 5 [0xAA, 1, 2, 3, 4]).fsync.inFrame = true ∧
    1 ≤ (fsyncAt true 5 [0xAA, 1, 2, 3, 4]).fsync.fill.toNat ∧
    (fsyncAt true 5 [0xAA, 1, 2, 3, 4]).fsync.fill.toNat ≤ 5 ∧
    (fsyncAt true 5 [0xAA, 1, 2, 3, 4]).fsync.buf.length =
      (fsyncAt true 5 [0xAA, 1, 2, 3, 4]).fsync.fill.toNat := by decide

theorem witness_close : fullA.fsync.buf = [0xAA, 0xE8, 0x03, 0x18, 0xFC, 0x01] ∧
    ((0xE8 : Byte).toNat + (0x03 : Byte).toNat + (0x18 : Byte).toNat + (0xFC : Byte).toNat + (0x01 : Byte).toNat)
      % 256 = (0x00 : Byte).toNat ∧
    ((0xE8 : Byte).toNat + (0x03 : Byte).toNat + (0x18 : Byte).toNat + (0xFC : Byte).toNat + (0x01 : Byte).toNat)
      % 256 ≠ (0x01 : Byte).toNat := by decide

theorem witness_dispatch : (State.reset.present (.rx false 0x1AA .idle)).input = .rx false 0x1AA .idle :: [] ∧
    (State.reset.present (.ctl false 0)).input = .ctl false 0 :: [] := by decide

theorem witness_stream_idle_word :
    ((0 : BitVec 9), State.reset.observation) ∈
      [(0 : BitVec 9)].zip (State.reset.observeEvents [LinkCycle.event ⟨0, .idle⟩]) ∧
    rxValid (0 : BitVec 9) = false := by decide

theorem witness_stream_packet :
    (State.reset.observeEvents ((frameEncode pktA).map fun b => LinkCycle.event ⟨rxByte b, .idle⟩))[6]?.bind
      Observation.packet = some pktA := by decide

theorem witness_fsync_inv_in_frame : fullA.fsync.Inv :=
  ⟨by decide, by decide, by decide, by decide⟩

theorem witness_fsync_inv_step : fullA.fsync.Inv ∧ ∃ t, step fullA = .next t :=
  ⟨witness_fsync_inv_in_frame, _, rfl⟩

theorem witness_six_plain_bytes : fullA.fsync.Inv ∧ (List.replicate 6 (0 : Byte)).length = 6 ∧
    (∀ b ∈ List.replicate 6 (0 : Byte), b ≠ 0xAA) ∧ (List.replicate 13 FsafeInputs.idle).length = 13 :=
  ⟨witness_fsync_inv_in_frame, by decide, by decide, by decide⟩

/-- Bytes 1 and 6, the ends of the range. -/
theorem witness_single_byte_error :
    ((∀ j, j ≤ 6 → j ≠ 1 → byteAt (0x0001FC1803E9AA : BitVec 56) j = byteAt (0x0001FC1803E8AA : BitVec 56) j) ∧
      byteAt (0x0001FC1803E9AA : BitVec 56) 1 ≠ byteAt (0x0001FC1803E8AA : BitVec 56) 1) ∧
    ((∀ j, j ≤ 6 → j ≠ 6 → byteAt (0x0101FC1803E8AA : BitVec 56) j = byteAt (0x0001FC1803E8AA : BitVec 56) j) ∧
      byteAt (0x0101FC1803E8AA : BitVec 56) 6 ≠ byteAt (0x0001FC1803E8AA : BitVec 56) 6) ∧
    validFrame 0x0001FC1803E8AA = true := by decide

/-- T-FR-2 and T-FS-8: bytes 1 and 2 exchanged. -/
theorem witness_reordered_data :
    byteAt (0x0001FC1803E8AA : BitVec 56) 0 = byteAt (0x0001FC18E803AA : BitVec 56) 0 ∧
    byteAt (0x0001FC1803E8AA : BitVec 56) 6 = byteAt (0x0001FC18E803AA : BitVec 56) 6 ∧
    [byteAt (0x0001FC1803E8AA : BitVec 56) 1, byteAt (0x0001FC1803E8AA : BitVec 56) 2,
      byteAt (0x0001FC1803E8AA : BitVec 56) 3, byteAt (0x0001FC1803E8AA : BitVec 56) 4,
      byteAt (0x0001FC1803E8AA : BitVec 56) 5].Perm
    [byteAt (0x0001FC18E803AA : BitVec 56) 1, byteAt (0x0001FC18E803AA : BitVec 56) 2,
      byteAt (0x0001FC18E803AA : BitVec 56) 3, byteAt (0x0001FC18E803AA : BitVec 56) 4,
      byteAt (0x0001FC18E803AA : BitVec 56) 5] := by decide

theorem witness_axis_delta_exact : (32767 : Int) ∣ max (-32767) (min 32767 (0x7FFF : AxisWord).toInt) * (45 : Nat) := by
  decide

theorem witness_encoded_frame : (0x0001FC1803E8AA : BitVec 56).toNat = leNat (frameEncode pktA) := by decide

theorem witness_checksum_order : [(1 : Byte), 2, 3, 4, 5].Perm [5, 4, 3, 2, 1] := by decide

theorem witness_pack_unpack : (∃ t, exec (.plPack pktA) State.reset = .next t) ∧
    ∃ t, exec (.plUnpack 0x01FC1803E8) State.reset = .next t := ⟨⟨_, rfl⟩, _, rfl⟩

theorem witness_axis_map_properties : (255 : Nat) ≤ 255 ∧ (0x8000 : AxisWord).toInt ≤ (0x7FFF : AxisWord).toInt ∧
    (0x8001 : AxisWord) ≠ 0x8000 := by decide

theorem witness_mirror : (180 : Byte).toNat ≤ 180 ∧ 180 < (181 : Byte).toNat := by decide

theorem witness_mix : State.reset.params.chcfg[1]? = some ⟨.x, true⟩ ∧
    State.reset.params.chcfg[4]? = some ⟨.y, false⟩ := by decide

theorem witness_poll_fresh : (fsafeAt .active true 1000 true [91, 89, 89, 89, 89]).fsafe.fresh = true := by decide

theorem witness_poll_force :
    (activeA.fsafe.fresh = false ∧
      800 < ((5801 : Time).toNat + 2 ^ 32 - activeA.fsafe.lastTs.toNat) % 2 ^ 32) ∧
    State.reset.fsafe.fresh = false ∧ State.reset.fsafe.tsValid = false := by decide

theorem witness_poll_hold : activeA.fsafe.fresh = false ∧ activeA.fsafe.tsValid = true ∧
    ((5800 : Time).toNat + 2 ^ 32 - activeA.fsafe.lastTs.toNat) % 2 ^ 32 ≤ 800 := by decide

theorem witness_forcing : activeA.fsafe.fresh = false ∧ activeA.fsafe.expired 5801 = true ∧
    exec (.fsfPoll 5801) activeA = .next activeA.quiet.enterFailsafe ∧
    activeA.quiet.enterFailsafe.fsafe.expired 5900 = true := ⟨rfl, by decide, rfl, by decide⟩

theorem witness_monotonic_clock : (5000 : Nat) ≤ 5801 ∧ 5801 - 5000 < 2 ^ 32 ∧ activeA.fsafe.tsValid = true ∧
    activeA.fsafe.fresh = false ∧ activeA.fsafe.lastTs = BitVec.ofNat 32 5000 ∧
    exec (.fsfPoll (BitVec.ofNat 32 5801)) activeA = .next activeA.quiet.enterFailsafe ∧
    exec (.fsfPoll (BitVec.ofNat 32 5800)) activeA = .next activeA.quiet :=
  ⟨by decide, by decide, rfl, rfl, rfl, rfl, rfl⟩

/-- An Active state that R30 allows. -/
theorem witness_fsafe_inv_active : activeA.fsafe.Inv activeA.params :=
  ⟨by decide, by decide, by decide, by decide, by decide, fun _ => ⟨0x03E8, 0xFC18, by decide⟩⟩

theorem witness_fsafe_inv_step : activeA.fsafe.Inv activeA.params ∧ ∃ t, step activeA = .next t :=
  ⟨witness_fsafe_inv_active, _, rfl⟩

theorem witness_multiplexer : (activeA.present (.ctl false 0x20000000000000016A9)).input =
      .ctl false 0x20000000000000016A9 :: [] ∧
    (activeA.present (.ctl false 0x20000000000000016A9)).fsafe.MuxHolds
      (activeA.present (.ctl false 0x20000000000000016A9)).params 0x03E8 0xFC18 ∧
    ∃ t, step (activeA.present (.ctl false 0x20000000000000016A9)) = .next t :=
  ⟨rfl, by unfold Fsafe.MuxHolds; decide, _, rfl⟩

theorem witness_failsafe_left : State.reset.fsafe.linkState = .failsafe ∧
    step (State.reset.present (.ctl false 0x103E8FC180100001388)) =
      .next (after State.reset (.ctl false 0x103E8FC180100001388)) ∧
    (after State.reset (.ctl false 0x103E8FC180100001388)).fsafe.linkState = .active ∧
    (acceptedAxes (State.reset.fsafeOperation (.ctl false 0x103E8FC180100001388))).isSome = true := ⟨rfl, rfl, rfl, rfl⟩

theorem witness_failsafe_entered : activeA.fsafe.linkState = .active ∧
    step (activeA.present (.ctl false 0x20000000000000016A9)) =
      .next (after activeA (.ctl false 0x20000000000000016A9)) ∧
    (after activeA (.ctl false 0x20000000000000016A9)).fsafe.linkState = .failsafe := ⟨rfl, rfl, rfl⟩

theorem witness_failsafe_entered_by_reset :
    step (activeA.present (.resetPulse .fsafe)) = .next (after activeA (.resetPulse .fsafe)) ∧
    (after activeA (.resetPulse .fsafe)).fsafe.linkState = .failsafe := ⟨rfl, rfl⟩

theorem witness_without_polls : activeA.fsafe.linkState = .active ∧
    (∀ e ∈ [Event.ctl false 0x0000000000000001518, .rx false 0x1AA ⟨true, true, 7⟩],
      pollsOrResetsFsafe activeA.params.link e = false) ∧
    activeA.acceptsAlong [.rx false 0x1AA .idle, .pl 0x10601FC1803E8 .idle] = false := ⟨rfl, by decide, rfl⟩

/-- The same on one chip, where FSAFE samples FSYNC's cycles. -/
theorem witness_without_polls_direct : (∀ e ∈ [Event.rx false 0x1AA .idle],
      pollsOrResetsFsafe (activeA.linkAs .direct).params.link e = false) ∧
    (activeA.linkAs .direct).acceptsAlong [.rx false 0x1AA .idle] = false ∧
    (fullA.linkAs .direct).acceptsAlong [.rx false 0x100 .idle] = true := ⟨by decide, rfl, rfl⟩

theorem witness_reset_lines : ResetLine.fsafe = .fsafe ∧ ResetLine.fsync ≠ .fsafe ∧ ResetLine.fsync = .fsync ∧
    ResetLine.both ≠ .fsync ∧ ResetLine.both ≠ .fsafe := by decide

theorem witness_reset_overrides : (fullA.present (.rx true 0x100 .idle)).input = .rx true 0x100 .idle :: [] ∧
    (activeA.present (.ctl true 0x103E8FC180100000007)).input = .ctl true 0x103E8FC180100000007 :: [] := by decide

/-- FSAFE reset in the cycle of a five-byte payload: the packet is driven and not accepted (log 25). -/
theorem witness_reset_overrides_radio : activeA.params.link = .radio ∧ (FsafeInputs.mk true true 7).rst = true ∧
    exec (decodePlw 0x10501FC1803E8) activeA = .next (activeA.quiet.emitUnpacked pktA) ∧
    (after activeA (.pl 0x10501FC1803E8 ⟨true, true, 7⟩)).fsafe.linkState = .failsafe ∧
    (after activeA (.pl 0x10501FC1803E8 ⟨true, true, 7⟩)).out.upk = some pktA := ⟨rfl, rfl, rfl, rfl, rfl⟩

theorem witness_reset_overrides_direct : (fullA.linkAs .direct).params.link = .direct ∧
    (FsafeInputs.mk true true 7).rst = true ∧
    exec (decodeEvent (fullA.linkAs .direct).decodeCtx (.rx false 0x100 ⟨true, true, 7⟩)) (fullA.linkAs .direct) =
      .next ((fullA.linkAs .direct).quiet.emitPacket pktA).closeFrame := ⟨rfl, rfl, rfl⟩

theorem witness_direct_delivery : (fullA.linkAs .direct).params.link = .direct ∧
    exec (decodeEvent (fullA.linkAs .direct).decodeCtx (.rx false 0x100 .idle)) (fullA.linkAs .direct) =
      .next ((fullA.linkAs .direct).quiet.emitPacket pktA).closeFrame ∧
    ((fullA.linkAs .direct).quiet.emitPacket pktA).closeFrame.out.pkt = some pktA := ⟨rfl, rfl, rfl⟩

/-- The same cycle with a wrong checksum brings no packet. -/
theorem witness_direct_without_packet :
    exec (decodeEvent (fullA.linkAs .direct).decodeCtx (.rx false 0x101 ⟨false, true, 0⟩)) (fullA.linkAs .direct) =
      .next ((fullA.linkAs .direct).quiet.raiseFs .badSum).closeFrame ∧
    ((fullA.linkAs .direct).quiet.raiseFs .badSum).closeFrame.out.pkt = none ∧
    (FsafeInputs.mk false true 0).rst = false ∧ (FsafeInputs.mk false true 0).poll = true ∧
    FsafeInputs.idle.poll = false := ⟨rfl, rfl, rfl, rfl, rfl⟩

theorem witness_observed_angles : activeA.fsafe.Inv activeA.params ∧
    State.observation (after activeA (.ctl false 0x20000000000000016A9)) ∈
      activeA.observeEvents [.ctl false 0x20000000000000016A9] ∧
    (State.observation (after activeA (.ctl false 0x20000000000000016A9))).failsafe = true :=
  ⟨witness_fsafe_inv_active, by decide, rfl⟩

theorem witness_step_runs : (State.reset.present (.rx false 0x155 .idle)).input = .rx false 0x155 .idle :: [] ∧
    decodeEvent (State.reset.present (.rx false 0x155 .idle)).decodeCtx (.rx false 0x155 .idle) = .fsSkip 0x55 ∧
    (Instr.fsSkip 0x55).wf = true ∧ State.reset.params.link = .radio ∧ State.reset.input = [] ∧
    (∀ w inputs, Event.rx false 0x155 .idle ≠ .pl w inputs) ∧ Link.radio ≠ .direct ∧
    (fullA.linkAs .direct).params.link = .direct ∧ (Instr.fsClose 0).wf = true ∧
    decodeEvent (fullA.linkAs .direct).decodeCtx (.rx false 0x100 .idle) = .fsClose 0 ∧
    decodePlw 0x10501FC1803E8 = .plUnpack 0x01FC1803E8 ∧ (Instr.plUnpack 0x01FC1803E8).wf = true :=
  ⟨rfl, rfl, rfl, rfl, rfl, nofun, nofun, rfl, rfl, rfl, rfl, rfl⟩

theorem witness_first_row : (1 ≤ (6 : BitVec 3).toNat ∧ (6 : BitVec 3).toNat ≤ 6) ∧
    firstRow rxwRows true 6 0x1AA = some "FS.CLOSE" ∧ firstRow rxwRows true 1 0x1AA = some "FS.APPEND" ∧
    firstRow rxwRows false 0 0x1AA = some "FS.SOF" := by decide

theorem witness_ignored_bits :
    (rxValid 0x0AA = rxValid 0x055 ∧ (rxValid 0x0AA = true → rxData 0x0AA = rxData 0x055)) ∧
    (plValid 0x1060000000000 = plValid 0x1060000000001 ∧ plLen 0x1060000000000 = plLen 0x1060000000001 ∧
      plLen 0x1060000000000 ≠ 5) ∧
    ctlPktValid 0x103E8FC180100001388 = ctlPktValid 0x103E8FC180000001388 ∧
    ctlPoll 0x103E8FC180100001388 = ctlPoll 0x103E8FC180000001388 ∧
    (ctlPacket 0x103E8FC180100001388).axisX = (ctlPacket 0x103E8FC180000001388).axisX ∧
    (ctlPacket 0x103E8FC180100001388).axisY = (ctlPacket 0x103E8FC180000001388).axisY ∧
    ctlNow 0x103E8FC180100001388 = ctlNow 0x103E8FC180000001388 := by decide

/-- FSAFE's samples: `now` differs without a packet and a poll, and everything beside a reset. -/
theorem witness_ignored_samples :
    exec (decodeEvent (fullA.linkAs .direct).decodeCtx (.rx false 0x101 ⟨false, false, 5⟩)) (fullA.linkAs .direct) =
      .next ((fullA.linkAs .direct).quiet.raiseFs .badSum).closeFrame ∧
    sameSample ((fullA.linkAs .direct).quiet.raiseFs .badSum).closeFrame.out.pkt.isSome
      ⟨false, false, 5⟩ ⟨false, false, 6⟩ ∧
    sameSample (plValid 0x10601FC1803E8 && plLen 0x10601FC1803E8 == 5) ⟨false, false, 5⟩ ⟨false, false, 6⟩ ∧
    sameSample (plValid 0x10501FC1803E8 && plLen 0x10501FC1803E8 == 5) ⟨true, false, 5⟩ ⟨true, true, 6⟩ ∧
    sameSample (plValid 0x10501FC1803E8 && plLen 0x10501FC1803E8 == 5) ⟨false, true, 5⟩ ⟨false, true, 5⟩ := by
  refine ⟨rfl, ?_, ?_, ?_, ?_⟩ <;> unfold sameSample <;> decide

theorem witness_diagnostics :
    step (fullA.present (.rx false 0x100 .idle)) = .next (after fullA (.rx false 0x100 .idle)) ∧
    (after fullA (.rx false 0x100 .idle)).out.pkt.isSome = true := ⟨rfl, rfl⟩

theorem witness_units_apart : (∃ t, exec (.fsClose 0) fullA = .next t ∧ (Instr.fsClose 0).format = .rxw) ∧
    (∃ t, exec (.fsfPoll 0) fullA = .next t ∧ (Instr.fsfPoll 0).format = .ctlw) ∧
    (∃ t, exec (.plUnpack 0) fullA = .next t ∧ (Instr.plUnpack 0).format ≠ .rxw ∧
      (Instr.plUnpack 0).format ≠ .ctlw ∧ ∀ line, (Instr.plUnpack 0).format ≠ .rst line) :=
  ⟨⟨_, rfl, rfl⟩, ⟨_, rfl, rfl⟩, _, rfl, by decide, by decide, fun line => by cases line <;> decide⟩

theorem witness_sentinel_in_frame :
    ((fsyncAt true 5 [0xAA, 1, 2, 3, 4]).present (.rx false 0x1AA#9 .idle)).fsync.inFrame = true ∧
    ((fsyncAt true 5 [0xAA, 1, 2, 3, 4]).present (.rx false 0x1AA#9 .idle)).input = .rx false 0x1AA#9 .idle :: [] ∧
    ((fsyncAt true 5 [0xAA, 1, 2, 3, 4]).present (.rx false 0x1AA#9 .idle)).fsync.fill.toNat ≤ 5 ∧
    (fullA.present (.rx false 0x1AA#9 .idle)).fsync.inFrame = true ∧
    (fullA.present (.rx false 0x1AA#9 .idle)).fsync.fill.toNat = 6 := by decide

theorem witness_unpacked_packet : (activeA.present (.pl 0x10501FC1803E8 .idle)).params.link = .radio ∧
    (activeA.present (.pl 0x10501FC1803E8 .idle)).input = .pl 0x10501FC1803E8 .idle :: [] ∧
    FsafeInputs.idle.rst = false ∧ FsafeInputs.idle.poll = false ∧ (FsafeInputs.mk false true 5801).poll = true ∧
    plValid 0x10501FC1803E8 = true ∧ plLen 0x10501FC1803E8 = 5 ∧
    plValid 0x1060000000000 = true ∧ plLen 0x1060000000000 ≠ 5 ∧ plLen 0x1040000000000 ≠ 5 ∧
    plValid 0x0050000000000 = false := by decide

/-- A batch: T-PL-11, T-PL-5, T-PL-7, then an empty cycle. -/
theorem witness_batch : State.reset.params.link = .radio ∧
    (∀ x ∈ [((0x105AAAAAAAAAA : BitVec 49), FsafeInputs.mk false false 40), (0x10501FC1803E8, ⟨false, false, 41⟩),
      (0x10601FC1803E8, ⟨false, false, 42⟩), (0, .idle)], x.2.rst = false ∧ x.2.poll = false) ∧
    plValid 0x10501FC1803E8 = true ∧ plLen 0x10501FC1803E8 = 5 ∧
    (∀ x ∈ [((0x10601FC1803E8 : BitVec 49), FsafeInputs.mk false false 42), (0, .idle)],
      ¬(plValid x.1 = true ∧ plLen x.1 = 5)) := by decide

theorem witness_timeout_boundary : activeA.fsafe.tsValid = true ∧ activeA.fsafe.fresh = false := by decide

theorem witness_decode_of_encode : (Instr.fsSkip 0x55).wf = true ∧ (Instr.fsSkip 0x55).selectable false 0 = true ∧
    (Instr.fsAppend 0xAA).wf = true ∧ (Instr.fsAppend 0xAA).selectable true 5 = true ∧
    (Instr.fsClose 0xAA).wf = true ∧ (Instr.fsClose 0xAA).selectable true 6 = true := by decide

end Sys2Proof.Tests
end

section
/-! Proofs of 00_scope.md: what a step is (R13, R14), and the agreement of the two compositions (R3, R134). -/

namespace Sys2Proof

/-! ### Pack and unpack -/

/-- A 16-bit field split into its bytes reads back (R53, R134). -/
theorem s16le_bytes (x : AxisWord) : s16le (byteAt x 0) (byteAt x 1) = x := by
  have h : x.toNat < 65536 := x.isLt
  apply BitVec.eq_of_toNat_eq
  rw [s16le, append_toNat, byteAt_toNat, byteAt_toNat, pow_zero, pow_one]
  omega

theorem byteAt_append_zero {m : Nat} (x : BitVec m) (b : Byte) : byteAt (x ++ b) 0 = b := extract_low_word x b

theorem byteAt_append_succ {m : Nat} (x : BitVec m) (b : Byte) (i : Nat) : byteAt (x ++ b) (i + 1) = byteAt x i :=
  extract_high x b (Nat.le_mul_of_pos_right 8 i.succ_pos)

/-- The bytes of a packed payload, first byte first (R72, R73). -/
theorem byteAt_payloadEncode (p : ControlPacket) :
    byteAt (payloadEncode p) 0 = byteAt p.axisX 0 ∧ byteAt (payloadEncode p) 1 = byteAt p.axisX 1 ∧
    byteAt (payloadEncode p) 2 = byteAt p.axisY 0 ∧ byteAt (payloadEncode p) 3 = byteAt p.axisY 1 ∧
    byteAt (payloadEncode p) 4 = p.button := by
  refine ⟨byteAt_append_zero _ _, ?_, ?_, ?_, ?_⟩
  · exact (byteAt_append_succ _ _ 0).trans (byteAt_append_zero _ _)
  · exact (byteAt_append_succ _ _ 1).trans ((byteAt_append_succ _ _ 0).trans (byteAt_append_zero _ _))
  · exact (byteAt_append_succ _ _ 2).trans ((byteAt_append_succ _ _ 1).trans
      ((byteAt_append_succ _ _ 0).trans (byteAt_append_zero _ _)))
  · exact (byteAt_append_succ _ _ 3).trans ((byteAt_append_succ _ _ 2).trans
      ((byteAt_append_succ _ _ 1).trans ((byteAt_append_succ _ _ 0).trans BitVec.extractLsb'_eq_self)))

theorem payloadDecode_payloadEncode (p : ControlPacket) : payloadDecode (payloadEncode p) = p := by
  obtain ⟨h0, h1, h2, h3, h4⟩ := byteAt_payloadEncode p
  rw [payloadDecode, packetAt_eq]
  simp only [Nat.zero_add, h0, h1, h2, h3, h4, s16le_bytes]

end Sys2Proof

namespace Sys2Proof.Machine

/-! ### One step -/

/-- FSAFE samples in no event but those of the unit that drives its packet inputs. -/
theorem linkedInputs_eq_none {link : Link} {e : Event}
    (hpl : link = .radio → ∀ w inputs, e ≠ .pl w inputs)
    (hrx : link = .direct → ∀ rst w inputs, e ≠ .rx rst w inputs) : e.linkedInputs link = none := by
  cases e
  case rx rst w inputs =>
    cases link
    · rfl
    · exact absurd rfl (hrx rfl rst w inputs)
  case pl w inputs =>
    cases link
    · exact absurd rfl (hpl rfl w inputs)
    · rfl
  all_goals rfl

theorem exec_params {i : Instr} {s t : State} (h : exec i s = .next t) : t.params = s.params :=
  (exec_fsafe_cases h).1

/-- Where FSAFE does not sample the event, a step is the event's operation. -/
theorem step_alone {s t : State} {e : Event} {rest : List Event} (hi : s.input = e :: rest)
    (he : e.linkedInputs s.params.link = none)
    (ht : exec (decodeEvent s.decodeCtx e) { s with input := rest } = .next t) : step s = .next t := by
  have hp : t.params = s.params := (exec_params ht).trans rfl
  rw [step_cons hi, ht, finishCycle_alone (by rw [hp, he])]

/-- Where it does, a step is the event's operation, then FSAFE's on the packet that the event drives. -/
theorem step_linked {s t u : State} {e : Event} {rest : List Event} {inputs : FsafeInputs}
    (hi : s.input = e :: rest) (he : e.linkedInputs s.params.link = some inputs)
    (ht : exec (decodeEvent s.decodeCtx e) { s with input := rest } = .next t)
    (hu : exec (decodeLinked t.upstream inputs) t = .next u) : step s = .next (u.withOutputsOf t) := by
  have hp : t.params = s.params := (exec_params ht).trans rfl
  rw [step_cons hi, ht, finishCycle_linked (by rw [hp, he]) hu]

/-- The rest of a cycle adds no stop to an operation that answered. -/
theorem finishCycle_next (e : Event) (t : State) : ∃ u, finishCycle e (.next t) = .next u := by
  rcases he : e.linkedInputs t.params.link with _ | inputs
  · exact ⟨t, finishCycle_alone he⟩
  · obtain ⟨u, hu⟩ := exec_next (decodeLinked t.upstream inputs) t
    exact ⟨u.withOutputsOf t, finishCycle_linked he hu⟩

/-- Settles O45: neither the selected operation nor the rest of its cycle stops. -/
theorem stepAlwaysAnswersNext : Obligations.StepAlwaysAnswersNext := by
  intro s
  rcases hi : s.input with _ | ⟨e, rest⟩
  · exact ⟨s.quiet, step_nil hi⟩
  · obtain ⟨t, ht⟩ := exec_next (decodeEvent s.decodeCtx e) { s with input := rest }
    rw [step_cons hi, ht]
    exact finishCycle_next e t

/-- Settles O44: `step_alone` for an event that FSAFE does not sample, `step_linked` for PLA's in the radio composition
and for FSYNC's in the direct one, `step_nil` for the quiet cycle. -/
theorem stepRunsSelectedOperation : Obligations.StepRunsSelectedOperation := by
  refine ⟨?alone, ?radio, ?direct, fun s hi => step_nil hi⟩
  case alone =>
    rintro s e rest i hi rfl - hpl hrx
    obtain ⟨t, ht⟩ := exec_next (decodeEvent s.decodeCtx e) { s with input := rest }
    rw [step_alone hi (linkedInputs_eq_none hpl hrx) ht, ht]
  case radio =>
    rintro s w inputs rest i hl hi rfl -
    obtain ⟨t, ht⟩ := exec_next (decodePlw w) { s with input := rest }
    obtain ⟨u, hu⟩ := exec_next (decodeLinked t.out.upk inputs) t
    have hup : t.upstream = t.out.upk := State.upstream_radio (by rw [exec_params ht, hl])
    exact ⟨t, u, ht, hu, step_linked hi (by rw [hl]; rfl) ht (by rw [hup, hu])⟩
  case direct =>
    rintro s rst w inputs rest i hl hi rfl -
    obtain ⟨t, ht⟩ := exec_next (decodeEvent s.decodeCtx (.rx rst w inputs)) { s with input := rest }
    obtain ⟨u, hu⟩ := exec_next (decodeLinked t.out.pkt inputs) t
    have hup : t.upstream = t.out.pkt := State.upstream_direct (by rw [exec_params ht, hl])
    exact ⟨t, u, ht, hu, step_linked hi (by rw [hl]; rfl) ht (by rw [hup, hu])⟩

/-! ### The payload on a loss-free transport -/

/-- PLA reads a delivered payload as PL.UNPACK of it. -/
theorem decodePlw_deliveredWord_some (payload : BitVec 40) :
    decodePlw (deliveredWord (some payload)) = .plUnpack payload := by
  have hvalid : plValid (deliveredWord (some payload)) = true := by
    simp only [plValid, deliveredWord, BitVec.getLsbD_append]
    simp
  have hlen : plLen (deliveredWord (some payload)) = Config.payloadLen :=
    (extract_high (1#1 ++ Config.payloadLen) payload (by decide)).trans (extract_low_word 1#1 Config.payloadLen)
  have hdata : plData (deliveredWord (some payload)) = payload := extract_low_word _ payload
  rw [decodePlw_valid hvalid, if_pos hlen, hdata]

/-- With nothing sent, PLA is idle. -/
theorem decodePlw_deliveredWord_none : decodePlw (deliveredWord none) = .plIdle := decodePlw_idle rfl

/-! ### The composition is read by no operation but for the pack half's output -/

/-- The same registers, parameters and counter of free values: what is left out is the composition, the outputs of the
event just taken and what the environment will present. -/
structure State.SameUnits (s t : State) : Prop where
  travel : s.params.travel = t.params.travel
  chcfg : s.params.chcfg = t.params.chcfg
  fsync : s.fsync = t.fsync
  fsafe : s.fsafe = t.fsafe
  freeCount : s.freeCount = t.freeCount

/-- The same units, and the same packet output of FSYNC and `servo_upd` in the event just taken. -/
structure State.SameEvent (s t : State) : Prop extends State.SameUnits s t where
  pkt : s.out.pkt = t.out.pkt
  servoUpd : s.out.servoUpd = t.out.servoUpd

theorem State.SameUnits.mix_eq {s t : State} (h : s.SameUnits t) (x y : AxisWord) :
    mix s.params x y = mix t.params x y := by
  simp only [mix, h.travel, h.chcfg]

theorem State.SameUnits.nch_eq {s t : State} (h : s.SameUnits t) : s.params.nch = t.params.nch := by
  simp only [Params.nch, h.chcfg]

theorem State.SameUnits.trans {s t u : State} (h : s.SameUnits t) (h' : t.SameUnits u) : s.SameUnits u where
  travel := h.travel.trans h'.travel
  chcfg := h.chcfg.trans h'.chcfg
  fsync := h.fsync.trans h'.fsync
  fsafe := h.fsafe.trans h'.fsafe
  freeCount := h.freeCount.trans h'.freeCount

theorem State.SameUnits.symm {s t : State} (h : s.SameUnits t) : t.SameUnits s where
  travel := h.travel.symm
  chcfg := h.chcfg.symm
  fsync := h.fsync.symm
  fsafe := h.fsafe.symm
  freeCount := h.freeCount.symm

theorem State.SameUnits.refl (s : State) : s.SameUnits s := ⟨rfl, rfl, rfl, rfl, rfl⟩

/-- What is presented is no part of the units. -/
theorem State.SameUnits.with_input {s t : State} (h : s.SameUnits t) (es fs : List Event) :
    State.SameUnits { s with input := es } { t with input := fs } := { h with }

/-- A packet is emitted in either composition. -/
theorem State.emitPacket_out_pkt (s : State) (p : ControlPacket) : (s.emitPacket p).out.pkt = some p := by
  rw [State.emitPacket_out]; cases s.params.link <;> rfl

theorem State.emitPacket_out_servoUpd (s : State) (p : ControlPacket) :
    (s.emitPacket p).out.servoUpd = s.out.servoUpd := by
  rw [State.emitPacket_out]; cases s.params.link <;> rfl

namespace State.SameEvent

variable {s t : State}

theorem of_quiet (h : s.SameUnits t) : s.quiet.SameEvent t.quiet where
  travel := h.travel
  chcfg := h.chcfg
  fsync := h.fsync
  fsafe := h.fsafe
  freeCount := h.freeCount
  pkt := rfl
  servoUpd := rfl

theorem raiseFs (h : s.SameEvent t) (d : Diag) : (s.raiseFs d).SameEvent (t.raiseFs d) := { h with }

theorem raisePl (h : s.SameEvent t) (d : Diag) : (s.raisePl d).SameEvent (t.raisePl d) := { h with }

theorem driveFn (h : s.SameEvent t) (r : FnResult) : (s.driveFn r).SameEvent (t.driveFn r) := { h with }

theorem driveTx (h : s.SameEvent t) (p : ControlPacket) : (s.driveTx p).SameEvent (t.driveTx p) := { h with }

theorem emitUnpacked (h : s.SameEvent t) (p : ControlPacket) :
    (s.emitUnpacked p).SameEvent (t.emitUnpacked p) := { h with }

theorem emitPacket (h : s.SameEvent t) (p : ControlPacket) : (s.emitPacket p).SameEvent (t.emitPacket p) where
  travel := by simp [h.travel]
  chcfg := by simp [h.chcfg]
  fsync := by simp [h.fsync]
  fsafe := by simp [h.fsafe]
  freeCount := by simp [h.freeCount]
  pkt := by rw [emitPacket_out_pkt, emitPacket_out_pkt]
  servoUpd := by rw [emitPacket_out_servoUpd, emitPacket_out_servoUpd, h.servoUpd]

theorem openFrame (h : s.SameEvent t) : s.openFrame.SameEvent t.openFrame := { h with fsync := rfl }

theorem storeByte (h : s.SameEvent t) (v : Byte) : (s.storeByte v).SameEvent (t.storeByte v) :=
  { h with fsync := by simp only [State.storeByte_fsync, h.fsync] }

theorem closeFrame (h : s.SameEvent t) : s.closeFrame.SameEvent t.closeFrame :=
  { h with fsync := rfl, freeCount := congrArg (· + 1) h.freeCount }

theorem acceptPacket (h : s.SameEvent t) (p : ControlPacket) (now : Time) :
    (s.acceptPacket p now).SameEvent (t.acceptPacket p now) :=
  { h with fsafe := by simp only [State.acceptPacket_fsafe, h.mix_eq], servoUpd := rfl }

theorem clearFresh (h : s.SameEvent t) : s.clearFresh.SameEvent t.clearFresh :=
  { h with fsafe := by simp only [State.clearFresh_fsafe, h.fsafe] }

theorem enterFailsafe (h : s.SameEvent t) : s.enterFailsafe.SameEvent t.enterFailsafe :=
  { h with fsafe := by simp only [State.enterFailsafe_fsafe, h.fsafe, h.nch_eq], servoUpd := rfl }

theorem pollCheck (h : s.SameEvent t) (now : Time) : (s.pollCheck now).SameEvent (t.pollCheck now) := by
  rcases s.pollCheck_cases now with ⟨hf, e⟩ | ⟨hf, he, e⟩ | ⟨hf, he, e⟩ <;> rw [h.fsafe] at hf
  · rw [e, State.pollCheck_fresh hf]; exact h.clearFresh
  · rw [e, State.pollCheck_force hf (h.fsafe ▸ he)]; exact h.enterFailsafe
  · rw [e, State.pollCheck_hold hf (h.fsafe ▸ he)]; exact h

theorem resetFsync (h : s.SameEvent t) : s.resetFsync.SameEvent t.resetFsync := { h with fsync := rfl }

theorem resetFsafe (h : s.SameEvent t) : s.resetFsafe.SameEvent t.resetFsafe :=
  { h with
    fsafe := by simp only [State.resetFsafe_fsafe, h.nch_eq, h.freeCount]
    freeCount := congrArg (· + 1) h.freeCount }

theorem resetOn (h : s.SameEvent t) (line : ResetLine) : (s.resetOn line).SameEvent (t.resetOn line) := by
  cases line
  · exact h.resetFsync
  · exact h.resetFsafe
  · exact h.resetFsync.resetFsafe

end State.SameEvent

/-- An operation does the same to the units in either composition. -/
theorem exec_sameEvent {i : Instr} {s t s' t' : State} (h : s.SameUnits t) (hs : exec i s = .next s')
    (ht : exec i t = .next t') : s'.SameEvent t' := by
  have hq := State.SameEvent.of_quiet h
  cases i
  case fsClose d =>
    simp only [exec, execFsClose, h.freeCount, h.fsync] at hs
    simp only [exec, execFsClose] at ht
    split at hs <;> rename_i hc
    · rw [if_pos hc] at ht; cases hs; cases ht; exact (hq.emitPacket _).closeFrame
    · rw [if_neg hc] at ht; cases hs; cases ht; exact (hq.raiseFs _).closeFrame
  case axMap raw =>
    simp only [exec, execAxMap, h.travel] at hs
    cases hs; cases ht; exact hq.driveFn _
  case axMix x y =>
    simp only [exec, execAxMix, h.mix_eq] at hs
    cases hs; cases ht; exact hq.driveFn _
  all_goals cases hs; cases ht
  case fsSof => exact hq.openFrame
  case fsSkip => exact hq.raiseFs _
  case fsAppend data => exact hq.storeByte data
  case plUnpack => exact hq.emitUnpacked _
  case plDrain => exact hq.raisePl _
  case fsfPkt q now => exact hq.acceptPacket q now
  case fsfPoll now => exact hq.pollCheck now
  case fsfPktPoll q now => exact (hq.acceptPacket q now).pollCheck now
  case reset line => exact hq.resetOn line
  case plPack q => exact hq.driveTx q
  case fsIdle | plIdle | fsfIdle => exact hq
  case chk | axMirror | frame | payload => exact hq.driveFn _

/-- In the radio composition FS.CLOSE sends the packet that it emits, packed, and nothing without one (R33, R130). -/
theorem exec_fsClose_tx {d : Byte} {s t : State} (hl : s.params.link = .radio)
    (h : exec (.fsClose d) s = .next t) : t.out.tx = t.out.pkt.map payloadEncode := by
  simp only [exec, execFsClose] at h
  split at h <;> cases h
  · simp [State.emitPacket_out, hl]
  · rfl

/-- So does every event of RXW: the other operations of FSYNC emit and send nothing. -/
theorem exec_decodeRxw_tx {inFrame : Bool} {fill : BitVec 3} {w : BitVec 9} {s t : State}
    (hl : s.params.link = .radio) (h : exec (decodeRxw inFrame fill w) s = .next t) :
    t.out.tx = t.out.pkt.map payloadEncode := by
  rcases hv : rxValid w with _ | _
  · rw [decodeRxw_idle hv] at h; cases h; rfl
  · cases inFrame
    · rw [decodeRxw_scanning hv] at h
      split at h <;> cases h <;> rfl
    · rw [decodeRxw_inFrame hv] at h
      split at h
      · cases h; rfl
      · exact exec_fsClose_tx hl h

/-! ### One cycle of each composition -/

/-- A run of one event is its step. -/
theorem runEvents_single {s t : State} {e : Event} (h : step { s with input := [e] } = .next t) :
    s.runEvents [e] = t := by
  simp only [State.runEvents, List.length_cons, List.length_nil, after_succ, after_zero, successor_of_step h]

/-- What PLA makes of what a loss-free transport delivers: the packet that was packed, and no unit changes. -/
theorem exec_deliveredWord {pkt : Option ControlPacket} {s t : State}
    (h : exec (decodePlw (deliveredWord (pkt.map payloadEncode))) s = .next t) :
    t.SameUnits s ∧ t.out.upk = pkt := by
  rcases pkt with _ | p
  · rw [Option.map_none, decodePlw_deliveredWord_none] at h
    cases h
    exact ⟨⟨rfl, rfl, rfl, rfl, rfl⟩, rfl⟩
  · rw [Option.map_some, decodePlw_deliveredWord_some] at h
    cases h
    exact ⟨⟨rfl, rfl, rfl, rfl, rfl⟩, congrArg some (payloadDecode_payloadEncode p)⟩

/-- A cycle of the direct composition: FSYNC's operation, then FSAFE's on its packet. -/
theorem directCycle_eq {s t u : State} (c : LinkCycle) (hl : s.params.link = .direct)
    (ht : exec (decodeRxw s.fsync.inFrame s.fsync.fill c.rxw) { s with input := [] } = .next t)
    (hu : exec (decodeLinked t.out.pkt c.fsafe) t = .next u) : s.directCycle c = u.withOutputsOf t := by
  have hup : t.upstream = t.out.pkt := State.upstream_direct (by rw [exec_params ht, hl])
  have he : c.event.linkedInputs s.params.link = some c.fsafe := by rw [hl]; rfl
  exact runEvents_single (step_linked (s := { s with input := [c.event] }) rfl he ht (by rw [hup, hu]))

/-- A cycle of the radio composition with a loss-free transport: FSYNC's operation, PLA's, which changes no unit and
unpacks FSYNC's packet, then FSAFE's on that packet. -/
theorem radioCycle_eq {s t : State} (c : LinkCycle) (hl : s.params.link = .radio)
    (ht : exec (decodeRxw s.fsync.inFrame s.fsync.fill c.rxw) { s with input := [] } = .next t) :
    ∃ v, v.SameUnits t ∧ v.params.link = .radio ∧
      ∀ u, exec (decodeLinked t.out.pkt c.fsafe) v = .next u → s.radioCycle c = u.withOutputsOf v := by
  have htl : t.params.link = .radio := by rw [exec_params ht, hl]
  have hsent : s.runEvents [c.event] = t :=
    runEvents_single (step_alone (s := { s with input := [c.event] }) rfl
      (show c.event.linkedInputs s.params.link = none by rw [hl]; rfl) ht)
  have htx : t.out.tx = t.out.pkt.map payloadEncode := exec_decodeRxw_tx (s := { s with input := [] }) hl ht
  obtain ⟨v, hv⟩ := exec_next (decodePlw (deliveredWord t.out.tx)) { t with input := [] }
  have hvl : v.params.link = .radio := by rw [exec_params hv, htl]
  obtain ⟨hvt, hupk⟩ := exec_deliveredWord (htx ▸ hv)
  refine ⟨v, hvt.trans ((State.SameUnits.refl t).with_input [] t.input), hvl, fun u hu => ?_⟩
  have hup : v.upstream = t.out.pkt := (State.upstream_radio hvl).trans hupk
  have he : (Event.pl (deliveredWord t.out.tx) c.fsafe).linkedInputs t.params.link = some c.fsafe := by
    rw [htl]; rfl
  simp only [State.radioCycle, hsent]
  exact runEvents_single (step_linked (s := { t with input := [_] }) rfl he hv (by rw [hup, hu]))

/-- What the machine wired directly and the machine wired by radio have in common after the same cycles. -/
structure State.Agree (d r : State) : Prop extends State.SameUnits d r where
  direct : d.params.link = .direct
  radio : r.params.link = .radio
  servoUpd : d.out.servoUpd = r.out.servoUpd

/-- A cycle of each composition, on the same inputs, keeps the two machines in agreement. -/
theorem State.Agree.cycle {d r : State} (h : d.Agree r) (c : LinkCycle) : (d.directCycle c).Agree (r.radioCycle c) := by
  obtain ⟨d₁, hd₁⟩ := exec_next (decodeRxw d.fsync.inFrame d.fsync.fill c.rxw) { d with input := [] }
  obtain ⟨r₁, hr₁⟩ := exec_next (decodeRxw d.fsync.inFrame d.fsync.fill c.rxw) { r with input := [] }
  have hfsync : SameEvent d₁ r₁ := exec_sameEvent (h.toSameUnits.with_input [] []) hd₁ hr₁
  obtain ⟨v, hv, hvl, hradio⟩ := radioCycle_eq c h.radio (h.fsync ▸ hr₁)
  obtain ⟨d₂, hd₂⟩ := exec_next (decodeLinked d₁.out.pkt c.fsafe) d₁
  obtain ⟨r₂, hr₂⟩ := exec_next (decodeLinked d₁.out.pkt c.fsafe) v
  have hfsafe : SameEvent d₂ r₂ := exec_sameEvent (hfsync.toSameUnits.trans hv.symm) hd₂ hr₂
  rw [directCycle_eq c h.direct hd₁ hd₂, hradio r₂ (hfsync.pkt ▸ hr₂)]
  exact { hfsafe with
    direct := by rw [withOutputsOf_params, exec_params hd₂, exec_params hd₁, h.direct]
    radio := by rw [withOutputsOf_params, exec_params hr₂, hvl] }

/-- Agreement holds after any sequence of cycles. -/
theorem State.Agree.cycles (cs : List LinkCycle) {d r : State} (h : d.Agree r) :
    (cs.foldl State.directCycle d).Agree (cs.foldl State.radioCycle r) := by
  induction cs generalizing d r with
  | nil => exact h
  | cons c cs ih => exact ih (h.cycle c)

/-- The two machines agree before the first cycle. -/
theorem State.agree_linkAs (s : State) : (s.linkAs .direct).Agree (s.linkAs .radio) :=
  ⟨⟨rfl, rfl, rfl, rfl, rfl⟩, rfl, rfl, rfl⟩

/-- Settles O55: the two machines agree to begin with, and `State.Agree` is kept by every cycle. -/
theorem directAndLossFreeRadioAgree : Obligations.DirectAndLossFreeRadioAgree := by
  intro cycles s d r
  have h : d.Agree r := s.agree_linkAs.cycles cycles
  exact ⟨h.fsync, h.fsafe, congrArg (fun f => f.linkState.bit) h.fsafe, h.servoUpd⟩

end Sys2Proof.Machine
end

section
/-! Proofs of 10_state.md: the invariants of both units (R24, R30), at reset and over every step, and the reset values
(R36). -/

namespace Sys2Proof.Machine

/-! ### FSYNC: what each of its writes makes of the invariants -/

theorem Fsync.inv_reset : Fsync.reset.Inv := ⟨by decide, by decide, rfl, by decide⟩

/-- FS.SOF establishes the invariants from any state (R113). -/
theorem State.openFrame_inv (s : State) : s.openFrame.fsync.Inv := by
  rw [State.openFrame_fsync]
  exact ⟨by decide, by decide, rfl, fun _ => rfl⟩

/-- In a frame byte 0 stays the sentinel when a byte is added at the end, since the buffer holds it already. -/
theorem Fsync.Inv.head_append {f : Fsync} (h : f.Inv) (hin : f.inFrame = true) (v : Byte) :
    (f.buf ++ [v])[0]? = some Config.sentinel := by
  have h0 := h.starts_with_sentinel hin
  rwa [List.getElem?_append_left (List.getElem?_eq_some_iff.1 h0).1]

/-- FS.APPEND keeps the invariants where it is selected: `fill` is at most 5, so adding one neither wraps nor exceeds 6
(R110, R114). -/
theorem State.storeByte_inv {s : State} (h : s.fsync.Inv) (hin : s.fsync.inFrame = true)
    (hfill : s.fsync.fill.toNat ≤ 5) (v : Byte) : (s.storeByte v).fsync.Inv := by
  have hsucc : (s.fsync.fill + 1).toNat = s.fsync.fill.toNat + 1 := by
    rw [BitVec.toNat_add_of_lt (by change s.fsync.fill.toNat + 1 < 8; omega)]; rfl
  rw [State.storeByte_fsync, bufWrite_of_length h.holds_fill_bytes]
  refine ⟨?_, ?_, ?_, fun _ => h.head_append hin v⟩
  · have hne : s.fsync.fill + 1 ≠ 0 := fun h0 => Nat.succ_ne_zero _ (hsucc.symm.trans (congrArg BitVec.toNat h0))
    exact ⟨(nomatch ·), (absurd · hne)⟩
  · exact hsucc ▸ Nat.succ_le_succ hfill
  · rw [List.length_append, h.holds_fill_bytes, hsucc]; rfl

/-- The operation that an event selects in FSYNC's own state keeps its invariants. -/
theorem exec_fsync_inv {s t : State} {e : Event} (h : s.fsync.Inv)
    (ht : exec (decodeEvent s.decodeCtx e) s = .next t) : t.fsync.Inv := by
  rcases exec_fsync_cases ht with ⟨-, hf⟩ | ⟨b, hi, hf⟩ | ⟨-, hf⟩ | hf <;> rw [hf]
  · exact s.openFrame_inv
  · obtain ⟨hin, hfill⟩ := fsAppend_selected hi
    exact State.storeByte_inv h hin hfill b
  · exact Fsync.inv_reset
  · exact h

/-- Settles O9: only the event's own operation reaches FSYNC (`step_fsync`), and it keeps the invariants. -/
theorem fsyncInvariantsHoldAlways : Obligations.FsyncInvariantsHoldAlways := by
  refine ⟨fun _ => Fsync.inv_reset, fun s t h hst => ?_⟩
  rcases hi : s.input with _ | ⟨e, rest⟩
  · rw [step_nil hi] at hst; cases hst; exact h
  · obtain ⟨u, hu, htu⟩ := step_fsync hi hst
    rw [htu]
    exact exec_fsync_inv (s := { s with input := rest }) h hu

/-! ### FSAFE: what each of its writes makes of the invariants -/

theorem neutralAngles_le {n : Nat} : ∀ a ∈ neutralAngles n, a.toNat ≤ 180 := by
  intro a ha
  rw [mem_neutralAngles ha]; decide

/-- Failsafe with every channel at `CENTER` and no fresh packet meets the invariants, whatever was received before. -/
theorem Fsafe.inv_neutral {p : Params} {f : Fsafe} (hl : f.linkState = .failsafe) (hf : f.fresh = false)
    (ha : f.servoAngle = neutralAngles p.nch) : f.Inv p where
  channels := by rw [ha, neutralAngles_length]
  bounded := by rw [ha]; exact neutralAngles_le
  neutral_in_failsafe _ := by rw [ha]; exact fun _ => mem_neutralAngles
  never_packet _ := ⟨hl, hf⟩
  fresh_active h := by rw [hf] at h; cases h
  mapped_when_active h := by rw [hl] at h; cases h

theorem Fsafe.inv_resetWith (p : Params) (lastTs : Time) : (Fsafe.resetWith p.nch lastTs).Inv p :=
  Fsafe.inv_neutral rfl rfl rfl

/-- A packet establishes the invariants from any state: the angles are the mix of its axes (R163). -/
theorem State.acceptPacket_inv (s : State) (q : ControlPacket) (now : Time) :
    (s.acceptPacket q now).fsafe.Inv s.params where
  channels := mix_length s.params q.axisX q.axisY
  bounded := mix_le s.params q.axisX q.axisY
  neutral_in_failsafe h := nomatch h
  never_packet h := nomatch h
  fresh_active _ := ⟨rfl, rfl⟩
  mapped_when_active _ := ⟨q.axisX, q.axisY, rfl⟩

/-- Clearing `fresh` keeps the invariants: none asks for it to be 1 (R164). -/
theorem State.clearFresh_inv {s : State} (h : s.fsafe.Inv s.params) : s.clearFresh.fsafe.Inv s.params :=
  { h with
    never_packet := fun hts => ⟨(h.never_packet hts).1, rfl⟩
    fresh_active := fun hf => nomatch hf }

/-- The entry to Failsafe leaves `fresh`, so it keeps the invariants where no packet is fresh (R164, R189). -/
theorem State.enterFailsafe_inv {s : State} (hf : s.fsafe.fresh = false) : s.enterFailsafe.fsafe.Inv s.params :=
  Fsafe.inv_neutral rfl hf rfl

theorem State.pollCheck_inv {s : State} (h : s.fsafe.Inv s.params) (now : Time) :
    (s.pollCheck now).fsafe.Inv s.params := by
  rcases s.pollCheck_cases now with ⟨-, e⟩ | ⟨hf, -, e⟩ | ⟨-, -, e⟩ <;> rw [e]
  · exact State.clearFresh_inv h
  · exact State.enterFailsafe_inv hf
  · exact h

/-- Every operation keeps FSAFE's invariants. -/
theorem exec_fsafe_inv {i : Instr} {s t : State} (h : s.fsafe.Inv s.params) (ht : exec i s = .next t) :
    t.fsafe.Inv t.params := by
  obtain ⟨hp, hcases⟩ := exec_fsafe_cases ht
  rw [hp]
  rcases hcases with ⟨q, now, -, hf⟩ | ⟨q, now, -, hf⟩ | ⟨now, -, hf⟩ | ⟨_, -, -, hf⟩ | ⟨-, -, hf⟩ <;> rw [hf]
  · exact s.acceptPacket_inv q now
  · exact State.clearFresh_inv (s := s.acceptPacket q now) (s.acceptPacket_inv q now)
  · exact State.pollCheck_inv h now
  · exact Fsafe.inv_resetWith s.params _
  · exact h

/-- Settles O34: a step does one operation to FSAFE (`step_fsafe`), in the same instantiation, and every operation keeps
the invariants. -/
theorem fsafeInvariantsHoldAlways : Obligations.FsafeInvariantsHoldAlways := by
  refine ⟨fun p => Fsafe.inv_resetWith p 0, fun s t h hst => ?_⟩
  rcases hi : s.input with _ | ⟨e, rest⟩
  · rw [step_nil hi] at hst; cases hst; exact h
  · obtain ⟨hp, s₁, t₁, hp₁, hf₁, ht₁, hf⟩ := step_fsafe hi hst
    have h₁ : t₁.fsafe.Inv t₁.params := exec_fsafe_inv (by rw [hf₁, hp₁]; exact h) ht₁
    rwa [exec_params ht₁, hp₁, ← hp, ← hf] at h₁

/-! ### The state after reset -/

/-- Settles O42: the reset halves of O9 and O34. -/
theorem resetMeetsInvariants : Obligations.ResetMeetsInvariants :=
  ⟨fun p => ⟨Fsync.inv_reset, Fsafe.inv_resetWith p 0⟩, rfl⟩

/-- Settles O41: R36's table, line by line, from the reset states of the two units and the idle outputs. -/
theorem resetStateHasStatedValues : Obligations.ResetStateHasStatedValues :=
  fun p => ⟨State.resetWith_fsync p, Fsafe.resetWith_linkState p.nch 0, Fsafe.resetWith_tsValid p.nch 0,
    Fsafe.resetWith_fresh p.nch 0, Fsafe.resetWith_servoAngle p.nch 0, congrArg Option.isSome Outputs.idle_pkt,
    congrArg Option.isSome Outputs.idle_upk, Outputs.idle_servoUpd, congrArg Diag.code Outputs.idle_fsDiag,
    congrArg Diag.code Outputs.idle_plDiag, congrArg LinkState.bit (Fsafe.resetWith_linkState p.nch 0)⟩

end Sys2Proof.Machine
end

section
/-! Proofs of 20_memory.md: what every observation of a run shows of the angles (R61), and the delivery of a packet inside
one event of the direct composition (R64). -/

namespace Sys2Proof.Machine

/-! ### Observations of a run -/

/-- Every observation of a run from FSAFE's invariants is that of a state of the same instantiation that meets them. -/
theorem exists_inv_of_mem_observeEvents {es : List Event} {s : State} {o : Observation} (h : s.fsafe.Inv s.params)
    (ho : o ∈ s.observeEvents es) : ∃ t : State, t.fsafe.Inv s.params ∧ o = t.observation := by
  induction es generalizing s with
  | nil => cases ho
  | cons e es ih =>
    obtain ⟨t, ht⟩ := stepAlwaysAnswersNext { s with input := e :: es }
    have hp : t.params = s.params := (step_fsafe rfl ht).1
    have hinv : t.fsafe.Inv t.params := fsafeInvariantsHoldAlways.2 { s with input := e :: es } t h ht
    rw [observeEvents_cons ht] at ho
    rcases List.mem_cons.1 ho with rfl | htail
    · exact ⟨t, hp ▸ hinv, rfl⟩
    · exact hp ▸ ih hinv htail

/-- The pin `failsafe` shows the link state (R34). -/
theorem LinkState.bit_eq_true_iff {l : LinkState} : l.bit = true ↔ l = .failsafe := by
  cases l <;> simp [LinkState.bit]

/-- Settles O38: each observation is that of a state that meets FSAFE's invariants, which bound the angles that the pins
show. -/
theorem observedAnglesAreLegal : Obligations.ObservedAnglesAreLegal := by
  intro s es h o ho
  obtain ⟨t, ht, rfl⟩ := exists_inv_of_mem_observeEvents h ho
  exact ⟨ht.channels, ht.bounded, fun hpin => ht.neutral_in_failsafe (LinkState.bit_eq_true_iff.1 hpin)⟩

/-! ### One event of the direct composition -/

/-- No operation of FSYNC pulses `servo_upd`, which is FSAFE's output (R34). -/
theorem exec_decodeRxw_servoUpd {inFrame : Bool} {fill : BitVec 3} {w : BitVec 9} {s t : State}
    (h : exec (decodeRxw inFrame fill w) s = .next t) : t.out.servoUpd = false := by
  rcases hv : rxValid w with _ | _
  · rw [decodeRxw_idle hv] at h; cases h; rfl
  · cases inFrame
    · rw [decodeRxw_scanning hv] at h
      split at h <;> cases h <;> rfl
    · rw [decodeRxw_inFrame hv] at h
      split at h
      · cases h; rfl
      · simp only [exec, execFsClose] at h
        split at h <;> cases h
        · exact State.emitPacket_out_servoUpd _ _
        · rfl

/-- Nor does any event of FSYNC, its reset included. -/
theorem exec_rx_servoUpd {ctx : DecodeCtx} {rst : Bool} {w : BitVec 9} {inputs : FsafeInputs} {s t : State}
    (h : exec (decodeEvent ctx (.rx rst w inputs)) s = .next t) : t.out.servoUpd = false := by
  cases rst
  · exact exec_decodeRxw_servoUpd h
  · cases h; rfl

/-- An event of FSYNC in the direct composition: FSYNC's operation, then FSAFE's on the packet that FSYNC emits, before any
other event is sampled (R64, R188e). -/
theorem step_direct {s t u : State} {rst : Bool} {w : BitVec 9} {inputs : FsafeInputs} {rest : List Event}
    (hl : s.params.link = .direct) (hi : s.input = .rx rst w inputs :: rest)
    (ht : exec (decodeEvent s.decodeCtx (.rx rst w inputs)) { s with input := rest } = .next t)
    (hu : exec (decodeLinked t.out.pkt inputs) t = .next u) : step s = .next (u.withOutputsOf t) := by
  have hup : t.upstream = t.out.pkt := State.upstream_direct (by rw [exec_params ht, hl])
  exact step_linked hi (by rw [hl]; rfl) ht (by rw [hup, hu])

/-- FSAFE takes a packet on the wire, with or without a poll: a poll in the same cycle only accounts for the packet at once
(R163, R165). -/
theorem exec_decodeLinked_packet (q : ControlPacket) (poll : Bool) (now : Time) (t : State) :
    ∃ u, exec (decodeLinked (some q) ⟨false, poll, now⟩) t = .next u ∧
      u.withOutputsOf t = { t with
        fsafe :=
          { linkState := .active, tsValid := true, lastTs := now, fresh := !poll
            servoAngle := mix t.params q.axisX q.axisY }
        out := { t.out with servoUpd := true } } := by
  cases poll
  · exact ⟨t.quiet.acceptPacket q now, by rw [decodeLinked_packet]; rfl, rfl⟩
  · refine ⟨(t.quiet.acceptPacket q now).clearFresh, ?_, rfl⟩
    rw [decodeLinked_packet_poll, ← State.pollCheck_acceptPacket t.quiet q now now]; rfl

/-- After FSF.IDLE the cycle shows what its first operation drove, if that left `servo_upd` idle (R162). -/
theorem State.quiet_withOutputsOf {t : State} (h : t.out.servoUpd = false) : t.quiet.withOutputsOf t = t := by
  have hout : { t.out with servoUpd := false } = t.out := by rw [← h]
  exact congrArg (fun o => { t with out := o }) hout

/-- Settles O54: `step_direct` with FSF.PKT or FSF.PKTPOLL for a packet, else with FSF.IDLE or FSF.POLL. -/
theorem directDeliveryIsLossFreeAndImmediate : Obligations.DirectDeliveryIsLossFreeAndImmediate := by
  rintro s t rst w ⟨_, poll, now⟩ rest hl hi rfl ht
  refine ⟨?packet, ?idle, ?poll⟩
  case packet =>
    intro q hq
    obtain ⟨u, hu, hout⟩ := exec_decodeLinked_packet q poll now t
    rw [step_direct hl hi ht (by rw [hq, hu]), hout, exec_params ht]
  case idle =>
    rintro hq rfl
    have hidle : exec (decodeLinked t.out.pkt ⟨false, false, now⟩) t = .next t.quiet := by
      rw [hq, decodeLinked_idle]; rfl
    rw [step_direct hl hi ht hidle, State.quiet_withOutputsOf (exec_rx_servoUpd ht)]
  case poll =>
    rintro hq rfl
    obtain ⟨u, hu⟩ := exec_next (.fsfPoll now) t
    exact ⟨u, hu, step_direct hl hi ht (by rw [hq, decodeLinked_poll, hu])⟩

end Sys2Proof.Machine
end

section
/-! Proofs of 30_encoding.md: the bytes and fields of the layouts (R70 to R75), the operation that a word selects (R76 to
R82), the opcode table (R80), the ignored bits (R86), and the round trip of the encoder. -/

namespace Sys2Proof

/-! ### Fields of a word -/

/-- A word that holds a bit vector of the port's width is that bit vector. -/
theorem ofNat_toNat_self {n : Nat} (w : BitVec n) : BitVec.ofNat n w.toNat = w := by
  rw [BitVec.ofNat_toNat, BitVec.setWidth_eq]

/-- Two adjacent bytes of a word are the 16-bit field that starts at the first (R53). -/
theorem s16le_byteAt {n : Nat} (w : BitVec n) (i : Nat) :
    s16le (byteAt w i) (byteAt w (i + 1)) = w.extractLsb' (8 * i) 16 :=
  BitVec.extractLsb'_append_extractLsb'_eq_extractLsb' (Nat.mul_succ 8 i)

/-- The packet layout from byte `first` on, as bit fields (R71, R73). -/
theorem packetAt_byteAt {n : Nat} (w : BitVec n) (first : Nat) : packetAt (byteAt w) first =
    ⟨w.extractLsb' (8 * first) 16, w.extractLsb' (8 * (first + 2)) 16, w.extractLsb' (8 * (first + 4)) 8⟩ := by
  rw [packetAt_eq, s16le_byteAt, s16le_byteAt, byteAt]

/-- A bit is the field of width 1. -/
theorem extract_bit {n : Nat} (w : BitVec n) (i : Nat) : w.extractLsb' i 1 = BitVec.ofBool (w.getLsbD i) := by
  apply BitVec.eq_of_getLsbD_eq
  intro j hj
  obtain rfl : j = 0 := by omega
  simp

/-- A field and the bit above it. -/
theorem extract_bit_above {n : Nat} (w : BitVec n) (a k : Nat) :
    w.extractLsb' a (1 + k) = BitVec.ofBool (w.getLsbD (a + k)) ++ w.extractLsb' a k := by
  rw [← extract_bit, BitVec.extractLsb'_append_extractLsb'_eq_extractLsb' rfl]

/-- A word under a mask of its high bits keeps those. -/
theorem and_highMask {k a : Nat} (w : BitVec (k + a)) :
    w &&& (BitVec.allOnes k ++ 0#a) = w.extractLsb' a k ++ 0#a := by
  conv_lhs => rw [← BitVec.extractLsb'_append_extractLsb' (x := w)]
  rw [BitVec.and_append, BitVec.and_allOnes, BitVec.and_zero]

/-- Two words put together are equal exactly when their parts are. -/
theorem append_eq_append_iff {m n : Nat} {x x' : BitVec m} {y y' : BitVec n} :
    x ++ y = x' ++ y' ↔ x = x' ∧ y = y' := by
  refine ⟨fun h => ⟨?_, ?_⟩, fun ⟨hx, hy⟩ => hx ▸ hy ▸ rfl⟩
  · rw [← BitVec.extractLsb'_append_eq_left (a := x) (b := y), h, BitVec.extractLsb'_append_eq_left]
  · rw [← extract_low_word x y, h, extract_low_word]


/-! ### The reference frame -/

/-- Byte `i` of the reference frame's word is its `i`-th byte. -/
theorem byteAt_frameEncode {q : ControlPacket} {f : BitVec 56} (h : f.toNat = leNat (Machine.frameEncode q))
    {i : Nat} {b : Byte} (hb : (Machine.frameEncode q)[i]? = some b) : byteAt f i = b := by
  have hf : f = BitVec.ofNat 56 (leNat (Machine.frameEncode q)) := by
    rw [← h, ofNat_toNat_self]
  rw [hf]
  exact byteAt_ofNat_leNat hb (Nat.le_of_eq rfl)

/-- Frame validity over the seven bytes, with the sum on numbers (R75, R100). -/
theorem validFrame_iff (f : BitVec 56) : Machine.validFrame f = true ↔
    byteAt f 0 = Config.sentinel ∧
    ((byteAt f 1).toNat + (byteAt f 2).toNat + (byteAt f 3).toNat + (byteAt f 4).toNat + (byteAt f 5).toNat) % 256 =
      (byteAt f 6).toNat := by
  simp only [Machine.validFrame, Bool.and_eq_true, beq_iff_eq, chkIndices_eq, BitVec.toNat_eq, Machine.chk_toNat,
    List.map_cons, List.map_nil, List.sum_cons, List.sum_nil, Nat.add_zero, Nat.add_assoc]

/-- Settles O12: each byte of the word is the encoder's (`byteAt_frameEncode`), the seventh the sum of the data bytes. -/
theorem encodedFrameIsValidAndDecodesBack : Obligations.EncodedFrameIsValidAndDecodesBack := by
  intro q f h
  have h0 : byteAt f 0 = Config.sentinel := byteAt_frameEncode h rfl
  have h1 : byteAt f 1 = byteAt q.axisX 0 := byteAt_frameEncode h rfl
  have h2 : byteAt f 2 = byteAt q.axisX 1 := byteAt_frameEncode h rfl
  have h3 : byteAt f 3 = byteAt q.axisY 0 := byteAt_frameEncode h rfl
  have h4 : byteAt f 4 = byteAt q.axisY 1 := byteAt_frameEncode h rfl
  have h5 : byteAt f 5 = q.button := byteAt_frameEncode h rfl
  have h6 : byteAt f 6 = Machine.chk (payloadBytes q) := byteAt_frameEncode h rfl
  refine ⟨rfl, ?valid, ?packet⟩
  case valid =>
    simp only [Machine.validFrame, chkIndices_eq, List.map_cons, List.map_nil, h0, h1, h2, h3, h4, h5, h6]
    exact Bool.and_eq_true_iff.2 ⟨beq_self_eq_true _, beq_self_eq_true _⟩
  case packet => simp only [frameDecode, packetAt_eq, h1, h2, h3, h4, h5, s16le_bytes]

/-! ### The data formats -/

/-- Settles O19: `packetAt_byteAt` from byte 1 for the packet, `validFrame_iff` for the validity. -/
theorem frameLayoutDecodesAndValidates : Obligations.FrameLayoutDecodesAndValidates := by
  intro s f
  refine ⟨Machine.validFrame f, ?_, validFrame_iff f⟩
  have hpacket := packetAt_byteAt f Config.chkFirst
  simp only [Machine.exec, Machine.execFrame, frameDecode, hpacket]
  rfl

/-- Settles O20: `packetAt_byteAt` from byte 0. -/
theorem payloadLayoutDecodes : Obligations.PayloadLayoutDecodes := by
  intro s w
  simp only [Machine.exec, Machine.execPayload, payloadDecode, packetAt_byteAt]
  rfl

/-! ### Selection -/

theorem decodeRxw_wf (inFrame : Bool) (fill : BitVec 3) (w : BitVec 9) : (decodeRxw inFrame fill w).wf = true := by
  rcases hv : rxValid w with _ | _
  · rw [decodeRxw_idle hv]; rfl
  · cases inFrame
    · rw [decodeRxw_scanning hv]
      split
      · rfl
      · next hne => exact bne_iff_ne.2 hne
    · rw [decodeRxw_inFrame hv]
      split <;> rfl

theorem decodePlw_wf (w : BitVec 49) : (decodePlw w).wf = true := by
  rcases hv : plValid w with _ | _
  · rw [decodePlw_idle hv]; rfl
  · rw [decodePlw_valid hv]
    split
    · rfl
    · next hne => exact bne_iff_ne.2 hne

theorem decodeCtlw_wf (w : BitVec 74) : (decodeCtlw w).wf = true := by
  unfold decodeCtlw
  split <;> rfl

/-- Settles O46: RXW and PLW select FS.SKIP and PL.DRAIN only where their byte is well-formed, a CHK word holds five bytes,
a frame is read behind the sentinel; every other operation is well-formed with any operand. -/
theorem everyEventSelectsWellFormedOperation : Obligations.EveryEventSelectsWellFormedOperation := by
  refine ⟨fun ctx e => ?event, fun upstream inputs => ?linked⟩
  case event =>
    cases e with
    | rx rst w inputs =>
      cases rst
      · exact decodeRxw_wf ctx.inFrame ctx.fill w
      · rfl
    | pl w inputs => exact decodePlw_wf w
    | ctl rst w =>
      cases rst
      · exact decodeCtlw_wf w
      · rfl
    | frame56 w => exact beq_iff_eq.2 (extract_low_word w Config.sentinel)
    | resetPulse | chk5 | cp | ax | ang | xy | payload40 => rfl
  case linked =>
    unfold decodeLinked
    split
    · rfl
    · exact decodeCtlw_wf _

/-- Settles O57: the six words, each decoded to its operation. -/
theorem writtenWordsDecode : Obligations.WrittenWordsDecode := by
  refine ⟨?_, ?_, ?_, ?_, ?_, ?_⟩ <;> decide

/-! ### The opcode table -/

/-- The mask of the rows that test `rx_valid` alone (R76). -/
theorem rxw_and_validMask (w : BitVec 9) : w &&& 0x100#9 = BitVec.ofBool (rxValid w) ++ 0#8 :=
  (and_highMask (k := 1) (a := 8) w).trans (congrArg (· ++ 0#8) (extract_bit w 8))

/-- The mask of FS.SOF (R76). -/
theorem rxw_and_fullMask (w : BitVec 9) : w &&& 0x1FF#9 = BitVec.ofBool (rxValid w) ++ rxData w :=
  BitVec.and_allOnes.trans (BitVec.extractLsb'_eq_self.symm.trans (extract_bit_above w 0 8))

/-- The mask of the rows that test `pl_valid` alone (R77). -/
theorem plw_and_validMask (w : BitVec 49) : w &&& 0x1000000000000#49 = BitVec.ofBool (plValid w) ++ 0#48 :=
  (and_highMask (k := 1) (a := 48) w).trans (congrArg (· ++ 0#48) (extract_bit w 48))

/-- The mask of PL.UNPACK (R77). -/
theorem plw_and_lenMask (w : BitVec 49) :
    w &&& 0x1FF0000000000#49 = BitVec.ofBool (plValid w) ++ plLen w ++ 0#40 :=
  (and_highMask (k := 9) (a := 40) w).trans (congrArg (· ++ 0#40) (extract_bit_above w 40 8))

/-- The mask of every row of CTLW (R78). -/
theorem ctlw_and_mask (w : BitVec 74) : w &&& 0x3000000000000000000#74 =
    BitVec.ofBool (ctlPoll w) ++ BitVec.ofBool (ctlPktValid w) ++ 0#72 := by
  have hfield : w.extractLsb' 72 2 = BitVec.ofBool (ctlPoll w) ++ BitVec.ofBool (ctlPktValid w) :=
    (extract_bit_above w 72 1).trans (congrArg (_ ++ ·) (extract_bit w 72))
  exact (and_highMask (k := 2) (a := 72) w).trans (congrArg (· ++ 0#72) hfield)

/-- FS.SOF's row matches a presented sentinel (R76). -/
theorem rxw_matches_sof (w : BitVec 9) :
    w &&& 0x1FF#9 = 0x1AA#9 ↔ rxValid w = true ∧ rxData w = Config.sentinel := by
  have hpattern : 0x1AA#9 = BitVec.ofBool true ++ Config.sentinel := by decide
  rw [rxw_and_fullMask, hpattern, append_eq_append_iff]
  cases rxValid w <;> simp

/-- PL.UNPACK's row matches a presented payload of five bytes (R77). -/
theorem plw_matches_unpack (w : BitVec 49) :
    w &&& 0x1FF0000000000#49 = 0x1050000000000#49 ↔ plValid w = true ∧ plLen w = Config.payloadLen := by
  have hpattern : 0x1050000000000#49 = BitVec.ofBool true ++ Config.payloadLen ++ 0#40 := by decide
  rw [plw_and_lenMask, hpattern, append_eq_append_iff, append_eq_append_iff]
  cases plValid w <;> simp

theorem firstRow_nil {n : Nat} (inFrame : Bool) (fill : BitVec 3) (w : BitVec n) :
    firstRow [] inFrame fill w = none := rfl

/-- The first row is taken where its condition and its match and mask hold; else the search goes on (R80). -/
theorem firstRow_cons {n : Nat} (r : OpRow n) (rows : List (OpRow n)) (inFrame : Bool) (fill : BitVec 3) (w : BitVec n) :
    firstRow (r :: rows) inFrame fill w =
      if r.cond.met inFrame fill = true ∧ w &&& r.mask = r.pattern then some r.mnemonic
      else firstRow rows inFrame fill w := by
  by_cases h : r.cond.met inFrame fill = true ∧ w &&& r.mask = r.pattern
  · simp [firstRow, h]
  · rw [if_neg h, firstRow, List.find?_cons_of_neg (by simpa using h), firstRow]

/-- The first row of RXW is the dispatch of R110, where a frame holds one to six bytes (R24). -/
theorem firstRow_rxwRows {inFrame : Bool} {fill : BitVec 3} (h : inFrame = true → 1 ≤ fill.toNat ∧ fill.toNat ≤ 6)
    (w : BitVec 9) : firstRow rxwRows inFrame fill w = some (decodeRxw inFrame fill w).mnemonic := by
  simp only [rxwRows, firstRow_cons, firstRow_nil, rxw_matches_sof, rxw_and_validMask]
  rcases hv : rxValid w with _ | _
  · rw [decodeRxw_idle hv]; rfl
  · cases inFrame
    · rw [decodeRxw_scanning hv]
      by_cases hs : rxData w = Config.sentinel <;> simp [RowWhen.met, Instr.mnemonic, hs]
    · rw [decodeRxw_inFrame hv]
      obtain ⟨hlo, hhi⟩ := h rfl
      by_cases hfill : fill.toNat ≤ 5
      · simp [RowWhen.met, Instr.mnemonic, hlo, hfill]
      · have hsix : fill.toNat = 6 := by omega
        simp [RowWhen.met, Instr.mnemonic, hsix]

/-- The first row of PLW is PLA's dispatch (R77). -/
theorem firstRow_plwRows (inFrame : Bool) (fill : BitVec 3) (w : BitVec 49) :
    firstRow plwRows inFrame fill w = some (decodePlw w).mnemonic := by
  simp only [plwRows, firstRow_cons, firstRow_nil, plw_matches_unpack, plw_and_validMask]
  rcases hv : plValid w with _ | _
  · rw [decodePlw_idle hv]; rfl
  · rw [decodePlw_valid hv]
    by_cases hlen : plLen w = Config.payloadLen <;> simp [RowWhen.met, Instr.mnemonic, hlen]

/-- The first row of CTLW is FSAFE's dispatch: the four rows are the four values of the two strobes (R78). -/
theorem firstRow_ctlwRows (inFrame : Bool) (fill : BitVec 3) (w : BitVec 74) :
    firstRow ctlwRows inFrame fill w = some (decodeCtlw w).mnemonic := by
  simp only [ctlwRows, firstRow_cons, firstRow_nil, ctlw_and_mask, decodeCtlw]
  cases ctlPktValid w <;> cases ctlPoll w <;> rfl

/-- Settles O47, format by format. -/
theorem decoderTakesFirstMatchingTableRow : Obligations.DecoderTakesFirstMatchingTableRow :=
  fun ctx h => ⟨fun w _ => firstRow_rxwRows h w, fun w _ => firstRow_plwRows ctx.inFrame ctx.fill w,
    firstRow_ctlwRows ctx.inFrame ctx.fill⟩

/-! ### The encoder -/

/-- A word of the format, written as bytes and read again, is the word's event (R9). -/
theorem eventOfBytes_leBytes {f : Format} {w : Nat} (h : w < 2 ^ f.width) :
    eventOfBytes f (leBytes f.byteCount w) = eventOfWord f w := by
  have hbits : f.width ≤ 8 * f.byteCount := by unfold Format.byteCount; omega
  have hread : leNat (leBytes f.byteCount w) = w := by
    rw [leNat_leBytes, Nat.mod_eq_of_lt (h.trans_le (Nat.pow_le_pow_right Nat.two_pos hbits))]
  rw [eventOfBytes, leBytes_length, if_neg (not_not_intro rfl), hread, if_neg (Nat.not_le.2 h)]

/-- PLW with a payload of the given length presented (R77). -/
def plWord (len : Byte) (data : BitVec 40) : BitVec 49 := 1#1 ++ len ++ data

@[simp] theorem rxValid_rxByte (b : Byte) : rxValid (Machine.rxByte b) = true := by
  simp only [rxValid, Machine.rxByte, BitVec.getLsbD_append]
  simp

@[simp] theorem rxData_rxByte (b : Byte) : rxData (Machine.rxByte b) = b := extract_low_word 1#1 b

@[simp] theorem plValid_plWord (len : Byte) (data : BitVec 40) : plValid (plWord len data) = true := by
  simp only [plValid, plWord, BitVec.getLsbD_append]
  simp

@[simp] theorem plLen_plWord (len : Byte) (data : BitVec 40) : plLen (plWord len data) = len :=
  (extract_high (1#1 ++ len) data (by decide)).trans (extract_low_word 1#1 len)

@[simp] theorem plData_plWord (len : Byte) (data : BitVec 40) : plData (plWord len data) = data :=
  extract_low_word _ data

/-- The event whose word the encoder writes: the operation's inputs on its port, the ignored bits 0. -/
def Instr.event : Instr → Event
  | .fsIdle => .rx false 0 .idle
  | .fsSof => .rx false (Machine.rxByte Config.sentinel) .idle
  | .fsSkip data => .rx false (Machine.rxByte data) .idle
  | .fsAppend data => .rx false (Machine.rxByte data) .idle
  | .fsClose data => .rx false (Machine.rxByte data) .idle
  | .plIdle => .pl 0 .idle
  | .plUnpack data => .pl (plWord Config.payloadLen data) .idle
  | .plDrain len => .pl (plWord len 0) .idle
  | .fsfIdle => .ctl false 0
  | .fsfPkt pkt now => .ctl false (ctlWord false true pkt now)
  | .fsfPoll now => .ctl false (ctlWord true false ⟨0, 0, 0⟩ now)
  | .fsfPktPoll pkt now => .ctl false (ctlWord true true pkt now)
  | .reset line => .resetPulse line
  | .chk span => .chk5 (BitVec.ofNat 40 (leNat span))
  | .plPack pkt => .cp (pkt.axisX ++ pkt.axisY ++ pkt.button)
  | .axMap raw => .ax raw
  | .axMirror angle => .ang angle
  | .axMix axisX axisY => .xy (axisX ++ axisY)
  | .frame bytes => .frame56 (bytes.extractLsb' 8 48)
  | .payload bytes => .payload40 bytes

/-- An operation's word has the bits of its format. -/
theorem encodeWord_lt {i : Instr} (h : i.wf = true) : encodeWord i < 2 ^ i.format.width := by
  cases i with
  | chk span =>
    have hlen : span.length = 5 := beq_iff_eq.1 h
    have hlt := leNat_lt span
    rwa [hlen] at hlt
  | fsIdle | plIdle | fsfIdle => exact Nat.two_pow_pos _
  | reset => exact Nat.one_lt_two
  | _ => exact BitVec.isLt _

/-- The encoder writes the word of `Instr.event` (R70, R72, R76 to R78, R81, R82). -/
theorem eventOfWord_encodeWord {i : Instr} (h : i.wf = true) :
    eventOfWord i.format (encodeWord i) = .ok i.event := by
  cases i with
  | fsIdle | plIdle | fsfIdle | reset | chk => rfl
  | fsSof | fsSkip | fsAppend | fsClose =>
    exact congrArg (fun w => Except.ok (Event.rx false w .idle)) (ofNat_toNat_self _)
  | plUnpack | plDrain => exact congrArg (fun w => Except.ok (Event.pl w .idle)) (ofNat_toNat_self _)
  | fsfPkt | fsfPoll | fsfPktPoll => exact congrArg (fun w => Except.ok (Event.ctl false w)) (ofNat_toNat_self _)
  | plPack => exact congrArg (fun w => Except.ok (Event.cp w)) (ofNat_toNat_self _)
  | axMap => exact congrArg (fun w => Except.ok (Event.ax w)) (ofNat_toNat_self _)
  | axMirror => exact congrArg (fun w => Except.ok (Event.ang w)) (ofNat_toNat_self _)
  | axMix => exact congrArg (fun w => Except.ok (Event.xy w)) (ofNat_toNat_self _)
  | payload => exact congrArg (fun w => Except.ok (Event.payload40 w)) (ofNat_toNat_self _)
  | frame bytes =>
    have hstart : BitVec.ofNat 8 bytes.toNat = Config.sentinel := beq_iff_eq.1 h
    have hrest : BitVec.ofNat 48 (bytes.toNat / 256) = bytes.extractLsb' 8 48 :=
      congrArg (BitVec.ofNat 48) (Nat.shiftRight_eq_div_pow bytes.toNat 8).symm
    simp only [Instr.format, eventOfWord, encodeWord, Instr.event, hstart, hrest, if_true]

theorem chkSpan_eq_map (w : BitVec 40) : chkSpan w = (List.range 5).map (byteAt w) := rfl

/-- The five bytes of a CHK word are those of its span (R81). -/
theorem chkSpan_ofNat_leNat {span : List Byte} (h : span.length = 5) :
    chkSpan (BitVec.ofNat 40 (leNat span)) = span := by
  refine List.ext_getElem h.symm fun i _ hi => ?_
  simp only [chkSpan_eq_map, List.getElem_map, List.getElem_range]
  exact byteAt_ofNat_leNat (List.getElem?_eq_getElem hi) (Nat.le_of_eq (congrArg (8 * ·) h))

/-- The packet of a FN-CP word (R81). -/
theorem cpPacket_append (p : ControlPacket) : cpPacket (p.axisX ++ p.axisY ++ p.button) = p := by
  have hy : (p.axisX ++ p.axisY ++ p.button).extractLsb' 8 16 = p.axisY :=
    (extract_high _ p.button (by decide)).trans (extract_low_word p.axisX p.axisY)
  have hx : (p.axisX ++ p.axisY ++ p.button).extractLsb' 24 16 = p.axisX :=
    (extract_high _ p.button (by decide)).trans BitVec.extractLsb'_append_eq_left
  have hb : (p.axisX ++ p.axisY ++ p.button).extractLsb' 0 8 = p.button := extract_low_word _ p.button
  simp only [cpPacket, hx, hy, hb]

/-- The event of an operation selects it, in every FSYNC state that can select it (R76 to R78, R110). -/
theorem decodeEvent_event {ctx : DecodeCtx} {i : Instr} (hwf : i.wf = true)
    (hsel : i.selectable ctx.inFrame ctx.fill = true) : decodeEvent ctx i.event = i := by
  obtain ⟨inFrame, fill⟩ := ctx
  cases i with
  | fsIdle | plIdle | fsfIdle | reset | axMap | axMirror | payload => rfl
  | fsSof =>
    obtain rfl : inFrame = false := by simpa [Instr.selectable] using hsel
    simp [Instr.event, decodeEvent, decodeRxw_scanning]
  | fsSkip data =>
    obtain rfl : inFrame = false := by simpa [Instr.selectable] using hsel
    have hne : data ≠ Config.sentinel := bne_iff_ne.1 hwf
    simp [Instr.event, decodeEvent, decodeRxw_scanning, hne]
  | fsAppend data =>
    obtain ⟨rfl, hfill⟩ : inFrame = true ∧ fill.toNat ≤ 5 := by simpa [Instr.selectable] using hsel
    simp [Instr.event, decodeEvent, decodeRxw_inFrame, hfill]
  | fsClose data =>
    obtain ⟨rfl, hfill⟩ : inFrame = true ∧ 5 < fill.toNat := by simpa [Instr.selectable] using hsel
    simp [Instr.event, decodeEvent, decodeRxw_inFrame, hfill]
  | plUnpack data => simp [Instr.event, decodeEvent, decodePlw_valid]
  | plDrain len =>
    have hne : len ≠ Config.payloadLen := bne_iff_ne.1 hwf
    simp [Instr.event, decodeEvent, decodePlw_valid, hne]
  | fsfPkt | fsfPoll | fsfPktPoll => simp [Instr.event, decodeEvent, decodeCtlw]
  | chk span => exact congrArg Instr.chk (chkSpan_ofNat_leNat (beq_iff_eq.1 hwf))
  | plPack pkt => exact congrArg Instr.plPack (cpPacket_append pkt)
  | axMix x y => exact congrArg₂ Instr.axMix BitVec.extractLsb'_append_eq_left (extract_low_word x y)
  | frame bytes =>
    have hstart : bytes.extractLsb' 0 8 = Config.sentinel := beq_iff_eq.1 hwf
    exact congrArg Instr.frame (hstart ▸ BitVec.extractLsb'_append_extractLsb' (w := 48) (len := 8))

/-- Settles O56: the encoder writes the word of `Instr.event`, the bytes read back as that word, and the event selects the
operation. -/
theorem decodeOfEncodeIsIdentity : Obligations.DecodeOfEncodeIsIdentity := by
  intro ctx i hwf hsel
  rw [decodeBytes, encode, eventOfBytes_leBytes (encodeWord_lt hwf), eventOfWord_encodeWord hwf]
  exact congrArg Except.ok (decodeEvent_event hwf hsel)

end Sys2Proof

namespace Sys2Proof.Machine

/-! ### Events with the same effect -/

/-- Two events of one state have the same effect if their own operations do the same and FSAFE then performs the same
operation. -/
theorem step_eq_of_same_cycle {s : State} {e e' : Event} {rest : List Event}
    (hexec : exec (decodeEvent s.decodeCtx e) { s with input := rest } =
      exec (decodeEvent s.decodeCtx e') { s with input := rest })
    (hdelivery : ∀ t, exec (decodeEvent s.decodeCtx e) { s with input := rest } = .next t → t.delivery e = t.delivery e') :
    step { s with input := e :: rest } = step { s with input := e' :: rest } := by
  obtain ⟨t, ht⟩ := exec_next (decodeEvent s.decodeCtx e) { s with input := rest }
  have hcycle : finishCycle e (.next t) = finishCycle e' (.next t) := by
    simp only [finishCycle, hdelivery t ht]
  calc step { s with input := e :: rest }
      = finishCycle e (exec (decodeEvent s.decodeCtx e) { s with input := rest }) := step_cons rfl
    _ = finishCycle e' (exec (decodeEvent s.decodeCtx e') { s with input := rest }) := by rw [← hexec, ht, hcycle]
    _ = step { s with input := e' :: rest } := (step_cons (s := { s with input := e' :: rest }) rfl).symm

/-- FSAFE's inputs that agree but for their ignored bits select one operation (R82, R86, R160). -/
theorem decodeLinked_eq_of_sameSample {upstream : Option ControlPacket} {i j : FsafeInputs}
    (h : sameSample upstream.isSome i j) : decodeLinked upstream i = decodeLinked upstream j := by
  obtain ⟨rst, poll, now⟩ := i
  obtain ⟨rst', poll', now'⟩ := j
  obtain ⟨rfl, hrest⟩ : rst = rst' ∧ _ := h
  cases rst
  · obtain ⟨rfl, hnow⟩ : poll = poll' ∧ _ := hrest rfl
    rcases upstream with _ | q
    · cases poll
      · rw [decodeLinked_idle, decodeLinked_idle]
      · obtain rfl : now = now' := hnow (.inr rfl)
        rfl
    · obtain rfl : now = now' := hnow (.inl rfl)
      rfl
  · rw [decodeLinked_reset rfl, decodeLinked_reset rfl]

/-- So FSAFE's operation is one in two events that its composition links to the same packet inputs. -/
theorem delivery_eq_of_sameSample {t : State} {e e' : Event} {i j : FsafeInputs}
    (he : e.linkedInputs t.params.link = some i) (he' : e'.linkedInputs t.params.link = some j)
    (h : sameSample t.upstream.isSome i j) : t.delivery e = t.delivery e' := by
  rw [State.delivery_linked he, State.delivery_linked he', decodeLinked_eq_of_sameSample h]

/-- RXW words that agree on `rx_valid`, and on `rx_data` where a byte is presented, select one operation (R76, R86). -/
theorem decodeRxw_congr {inFrame : Bool} {fill : BitVec 3} {v w : BitVec 9} (hvalid : rxValid v = rxValid w)
    (hdata : rxValid v = true → rxData v = rxData w) : decodeRxw inFrame fill v = decodeRxw inFrame fill w := by
  rcases hv : rxValid v with _ | _
  · rw [decodeRxw_idle hv, decodeRxw_idle (hvalid ▸ hv)]
  · simp only [decodeRxw, ← hvalid, hdata hv]

/-- PLW words that agree on `pl_valid`, on `pl_len` where a payload is presented and on `pl_data` where it has five bytes
select one operation (R77, R86). -/
theorem decodePlw_congr {v w : BitVec 49} (hvalid : plValid v = plValid w) (hlen : plValid v = true → plLen v = plLen w)
    (hdata : plValid v = true → plLen v = 5 → plData v = plData w) : decodePlw v = decodePlw w := by
  rcases hv : plValid v with _ | _
  · rw [decodePlw_idle hv, decodePlw_idle (hvalid ▸ hv)]
  · rw [decodePlw_valid hv, decodePlw_valid (hvalid ▸ hv), ← hlen hv]
    split
    · next h5 => rw [hdata hv h5]
    · rfl

/-- PLA unpacks a packet exactly from a presented payload of five bytes (R131, R132, R133). -/
theorem exec_decodePlw_upk {w : BitVec 49} {s t : State} (h : exec (decodePlw w) s = .next t) :
    t.out.upk.isSome = (plValid w && plLen w == 5) := by
  rcases hv : plValid w with _ | _
  · rw [decodePlw_idle hv] at h
    cases h; rfl
  · rw [decodePlw_valid hv] at h
    split at h
    · next h5 => cases h; exact (beq_iff_eq.2 h5).symm
    · next h5 => cases h; exact (beq_eq_false_iff_ne.2 h5).symm

/-- CTLW words that agree on the strobes, on the axes of a packet, and on `now` where a strobe is 1, do the same: FSAFE
reads no button (R86, R146). -/
theorem exec_decodeCtlw_congr {v w : BitVec 74} {s : State} (hvalid : ctlPktValid v = ctlPktValid w)
    (hpoll : ctlPoll v = ctlPoll w)
    (haxes : ctlPktValid v = true →
      (ctlPacket v).axisX = (ctlPacket w).axisX ∧ (ctlPacket v).axisY = (ctlPacket w).axisY)
    (hnow : ctlPktValid v = true ∨ ctlPoll v = true → ctlNow v = ctlNow w) :
    exec (decodeCtlw v) s = exec (decodeCtlw w) s := by
  simp only [decodeCtlw, ← hvalid, ← hpoll]
  rcases hv : ctlPktValid v with _ | _ <;> rcases hp : ctlPoll v with _ | _
  · rfl
  · simp only [hnow (.inr hp)]
  · obtain ⟨hx, hy⟩ := haxes hv
    simp only [exec, execFsfPkt, State.acceptPacket, hnow (.inl hv), hx, hy]
  · obtain ⟨hx, hy⟩ := haxes hv
    simp only [exec, execFsfPktPoll, State.acceptPacket, hnow (.inl hv), hx, hy]

/-- Settles O48: in each case the two events do the same and FSAFE's operation of the cycle is the same
(`step_eq_of_same_cycle`). -/
theorem ignoredBitsHaveNoEffect : Obligations.IgnoredBitsHaveNoEffect := by
  refine ⟨?rx, ?pl, ?ctl⟩
  case rx =>
    intro s t rst v w i j rest hword ht hsample
    have hop : decodeEvent s.decodeCtx (.rx rst v i) = decodeEvent s.decodeCtx (.rx rst w j) := by
      cases rst
      · obtain ⟨hvalid, hdata⟩ := hword rfl
        exact decodeRxw_congr hvalid hdata
      · rfl
    refine step_eq_of_same_cycle (by rw [hop]) fun t' ht' => ?_
    obtain rfl : { t with input := rest } = t' := Host.Outcome.next.inj ((exec_with_input ht rest).symm.trans ht')
    have hlink : t.params.link = s.params.link := congrArg Params.link (exec_params ht)
    rcases hl : s.params.link with _ | _ <;> rw [hl] at hlink
    · simp only [State.delivery, Event.linkedInputs, hlink, reduceCtorEq, if_false]
    · exact delivery_eq_of_sameSample (by rw [hlink]; rfl) (by rw [hlink]; rfl)
        (State.upstream_direct (s := { t with input := rest }) hlink ▸ hsample hl)
  case pl =>
    intro s v w i j rest hvalid hlen hdata hsample
    have hop : decodePlw v = decodePlw w := decodePlw_congr hvalid hlen hdata
    refine step_eq_of_same_cycle (congrArg (exec · _) hop) fun t ht => ?_
    have hlink : t.params.link = s.params.link := congrArg Params.link ((exec_params ht).trans rfl)
    rcases hl : s.params.link with _ | _ <;> rw [hl] at hlink
    · refine delivery_eq_of_sameSample (by rw [hlink]; rfl) (by rw [hlink]; rfl) ?_
      rw [State.upstream_radio hlink, exec_decodePlw_upk ht]
      exact hsample hl
    · simp only [State.delivery, Event.linkedInputs, hlink, reduceCtorEq, if_false]
  case ctl =>
    intro s rst v w rest hword
    refine step_eq_of_same_cycle ?_ fun _ _ => rfl
    cases rst
    · obtain ⟨hvalid, hpoll, haxes, hnow⟩ := hword rfl
      exact exec_decodeCtlw_congr hvalid hpoll haxes hnow
    · rfl

/-! ### Reset -/

/-- The reset of FSAFE in a cycle keeps that cycle's outputs, with `servo_upd` idle (R82, R210). -/
theorem exec_reset_withOutputsOf (t : State) : ∃ u, exec (.reset .fsafe) t = .next u ∧
    u.withOutputsOf t = { u with out := { t.out with servoUpd := false } } := ⟨t.quiet.resetFsafe, rfl, rfl⟩

/-- FSAFE's `rst` in the cycle of the unit that drives its packet inputs resets it after that unit's operation, whatever the
wire carries (R82, R188). -/
theorem step_linked_reset {s t : State} {e : Event} {rest : List Event} {inputs : FsafeInputs}
    (hi : s.input = e :: rest) (he : e.linkedInputs s.params.link = some inputs) (hrst : inputs.rst = true)
    (ht : exec (decodeEvent s.decodeCtx e) { s with input := rest } = .next t) :
    ∃ u, exec (.reset .fsafe) t = .next u ∧ step s = .next { u with out := { t.out with servoUpd := false } } := by
  obtain ⟨u, hu, hout⟩ := exec_reset_withOutputsOf t
  exact ⟨u, hu, by rw [step_linked hi he ht (by rw [decodeLinked_reset hrst, hu]), hout]⟩

/-- Settles O43: `rst` selects RESET before any row of the word's format; on FSAFE's inputs by `step_linked_reset`. -/
theorem resetOverridesEveryWord : Obligations.ResetOverridesEveryWord := by
  refine ⟨?fsync, ?direct, ?radio, ?fsafe⟩
  case fsync => exact fun s w inputs rest hi => step_cons hi
  case direct =>
    exact fun s t rst w inputs rest hl hrst hi ht => step_linked_reset hi (by rw [hl]; rfl) hrst ht
  case radio =>
    exact fun s t w inputs rest hl hrst hi ht => step_linked_reset hi (by rw [hl]; rfl) hrst ht
  case fsafe =>
    intro s w rest hi
    obtain ⟨t, ht⟩ := exec_next (.reset .fsafe) { s with input := rest }
    rw [step_alone hi rfl ht, ht]

end Sys2Proof.Machine
end

section
/-! Proofs of 40_checksum.md: the value of CHK (R100), its insensitivity to the order of its bytes (R102), and what it does
and does not detect in a frame (R103). -/

namespace Sys2Proof.Machine

/-! ### CHK of a span -/

/-- Settles O13: the result is `chk` of the span, and `chk_toNat` its value. -/
theorem checksumIsSumModulo256 : Obligations.ChecksumIsSumModulo256 :=
  fun _ span => ⟨chk span, rfl, chk_toNat span⟩

/-- Settles O14: the sum of the bytes does not depend on their order. -/
theorem checksumIgnoresByteOrder : Obligations.ChecksumIgnoresByteOrder := by
  intro a b h
  apply BitVec.eq_of_toNat_eq
  rw [chk_toNat, chk_toNat, (h.map _).sum_eq]

/-- An accumulator that wraps at each byte gives the same sum (R100). -/
theorem chk_cons (b : Byte) (span : List Byte) : chk (b :: span) = b + chk span := by
  apply BitVec.eq_of_toNat_eq
  rw [BitVec.toNat_add, chk_toNat, chk_toNat, List.map_cons, List.sum_cons, Nat.add_mod_mod]

/-- Where only one byte of a span may differ, the checksum determines it: the other bytes add the same to both sums, and
addition of a fixed byte is injective (R103). -/
theorem eq_of_chk_map_eq {l : List Nat} {a b : Nat → Byte} {k : Nat} (hl : l.Nodup) (hk : k ∈ l)
    (hrest : ∀ j ∈ l, j ≠ k → b j = a j) (h : chk (l.map b) = chk (l.map a)) : b k = a k := by
  have hfirst (c : Nat → Byte) : chk (l.map c) = c k + chk ((l.erase k).map c) := by
    rw [checksumIgnoresByteOrder _ _ ((List.perm_cons_erase hk).map c), List.map_cons, chk_cons]
  have hothers : (l.erase k).map b = (l.erase k).map a :=
    List.map_congr_left fun j hj => hrest j (List.mem_of_mem_erase hj) (hl.mem_erase_iff.1 hj).1
  rw [hfirst, hfirst, hothers] at h
  exact (BitVec.add_left_inj _).1 h

/-! ### CHK of a frame -/

theorem mem_chkIndices {k : Nat} : k ∈ Config.chkIndices ↔ 1 ≤ k ∧ k ≤ 5 := by
  rw [Config.chkIndices, List.mem_range'_1]
  exact and_congr_right fun _ => Nat.lt_succ_iff

theorem nodup_chkIndices : Config.chkIndices.Nodup := List.nodup_range'

/-- Frame validity as the checksum of the covered bytes (R75). -/
theorem validFrame_iff_chk (f : BitVec 56) : validFrame f = true ↔
    byteAt f 0 = Config.sentinel ∧ chk (Config.chkIndices.map (byteAt f)) = byteAt f 6 := by
  rw [validFrame, Bool.and_eq_true, beq_iff_eq, beq_iff_eq]

/-- Settles O10: were both frames valid, a change of byte 6 alone would leave the checksum that it must equal, and a change
of one covered byte would leave a checksum that determines that byte (`eq_of_chk_map_eq`). -/
theorem singleByteErrorIsDetected : Obligations.SingleByteErrorIsDetected := by
  intro f g k hk1 hk6 hsame hdiff hf
  refine Bool.eq_false_iff.2 fun hg => hdiff ?_
  have hfsum := ((validFrame_iff_chk f).1 hf).2
  have hgsum := ((validFrame_iff_chk g).1 hg).2
  have hcovered : ∀ j ∈ Config.chkIndices, j ≠ k → byteAt g j = byteAt f j :=
    fun j hj => hsame j (Nat.le_succ_of_le (mem_chkIndices.1 hj).2)
  obtain rfl | hk5 : k = 6 ∨ k ≤ 5 := by omega
  case inl =>
    have hdata : Config.chkIndices.map (byteAt g) = Config.chkIndices.map (byteAt f) :=
      List.map_congr_left fun j hj => hcovered j hj (Nat.ne_of_lt (Nat.lt_succ_of_le (mem_chkIndices.1 hj).2))
    rw [← hgsum, hdata, hfsum]
  case inr =>
    have hsum : byteAt g 6 = byteAt f 6 := hsame 6 (Nat.le_refl 6) (Nat.ne_of_gt (Nat.lt_succ_of_le hk5))
    exact eq_of_chk_map_eq nodup_chkIndices (mem_chkIndices.2 ⟨hk1, hk5⟩) hcovered (by rw [hgsum, hsum, hfsum])

/-- Settles O11: validity reads the data bytes only through their checksum, which ignores their order (R102). -/
theorem reorderedDataBytesAreNotDetected : Obligations.ReorderedDataBytesAreNotDetected := by
  intro f g h0 h6 hperm
  have hchk : chk (Config.chkIndices.map (byteAt f)) = chk (Config.chkIndices.map (byteAt g)) :=
    checksumIgnoresByteOrder _ _ hperm
  rw [Bool.eq_iff_iff, validFrame_iff_chk, validFrame_iff_chk, h0, h6, hchk]

end Sys2Proof.Machine
end

section
/-! Proofs of 41_frame_sync.md: the operations of FSYNC (R111 to R115), their selection (R110, R116), and the packets of a
stream of bytes (R118). -/

namespace Sys2Proof

/-! ### Selection -/

/-- FSYNC's dispatch in the order of R110, its tests on the strobe and on `in_frame` written as equations. -/
theorem decodeRxw_eq (inFrame : Bool) (fill : BitVec 3) (w : BitVec 9) : decodeRxw inFrame fill w =
    if rxValid w = false then .fsIdle
    else if inFrame = false ∧ rxData w = 0xAA then .fsSof
    else if inFrame = false then .fsSkip (rxData w)
    else if fill.toNat ≤ 5 then .fsAppend (rxData w)
    else .fsClose (rxData w) := by
  rcases hv : rxValid w with _ | _
  · rw [decodeRxw_idle hv, if_pos rfl]
  · cases inFrame
    · rw [decodeRxw_scanning hv]
      simp only [true_and, if_true, reduceCtorEq, if_false]
      rfl
    · rw [decodeRxw_inFrame hv]
      simp only [reduceCtorEq, false_and, if_false]

/-- FSAFE's dispatch in the order of R160, its tests on the strobes written as equations. -/
theorem decodeCtlw_eq (w : BitVec 74) : decodeCtlw w =
    if ctlPktValid w = false ∧ ctlPoll w = false then .fsfIdle
    else if ctlPktValid w = true ∧ ctlPoll w = false then .fsfPkt (ctlPacket w) (ctlNow w)
    else if ctlPktValid w = false ∧ ctlPoll w = true then .fsfPoll (ctlNow w)
    else .fsfPktPoll (ctlPacket w) (ctlNow w) := by
  rcases hv : ctlPktValid w with _ | _ <;> rcases hp : ctlPoll w with _ | _ <;> simp [decodeCtlw, hv, hp]

/-- In a frame the sentinel's value is a byte like any other (R116). -/
theorem decodeRxw_sentinel_inFrame (fill : BitVec 3) :
    decodeRxw true fill 0x1AA#9 = if fill.toNat ≤ 5 then .fsAppend 0xAA else .fsClose 0xAA :=
  decodeRxw_inFrame rfl

/-! ### Bytes of a packet and of a frame -/

/-- A byte is the one byte of itself. -/
theorem byteAt_byte (b : Byte) : byteAt b 0 = b := BitVec.extractLsb'_eq_self

/-- The payload of the packet that five bytes stand for is those five bytes (R72, R135). -/
theorem payloadEncode_bytes (b1 b2 b3 b4 b5 : Byte) :
    payloadEncode ⟨s16le b1 b2, s16le b3 b4, b5⟩ = b5 ++ b4 ++ b3 ++ b2 ++ b1 := by
  have hlow (lo hi : Byte) : byteAt (s16le lo hi) 0 = lo := byteAt_append_zero hi lo
  have hhigh (lo hi : Byte) : byteAt (s16le lo hi) 1 = hi := (byteAt_append_succ hi lo 0).trans (byteAt_byte hi)
  simp only [payloadEncode, hlow, hhigh]

/-- A packet is assembled from five reads, so two readers that agree on them give one packet (R71). -/
theorem packetAt_congr {read read' : Nat → Byte} {first : Nat}
    (h : ∀ i, first ≤ i → i ≤ first + 4 → read i = read' i) : packetAt read first = packetAt read' first := by
  rw [packetAt_eq, packetAt_eq, h first, h (first + 1), h (first + 2), h (first + 3), h (first + 4)] <;> omega

end Sys2Proof

namespace Sys2Proof.Machine

/-! ### One operation -/

/-- Settles O1: each of the three is `State.quiet`. -/
theorem idleOperationsChangeNothing : Obligations.IdleOperationsChangeNothing := by
  intro s i hi
  simp only [List.mem_cons, List.not_mem_nil, or_false] at hi
  rcases hi with rfl | rfl | rfl <;> rfl

/-- Settles O2: FS.SKIP is `State.raiseFs` on the quiet state. -/
theorem skipOnlyRaisesDiagnosticOne : Obligations.SkipOnlyRaisesDiagnosticOne :=
  fun _ _ => ⟨rfl, rfl⟩

/-- Settles O3: FS.SOF is `State.openFrame` on the quiet state. -/
theorem startOfFrameStoresSentinel : Obligations.StartOfFrameStoresSentinel :=
  fun _ => rfl

/-- With at most five bytes held, `fill` advances without wrapping (R22, R114). -/
theorem fill_succ_toNat {fill : BitVec 3} (h : fill.toNat ≤ 5) : (fill + 1).toNat = fill.toNat + 1 := by
  rw [BitVec.toNat_add_of_lt (by change fill.toNat + 1 < 8; omega)]; rfl

/-- FS.APPEND adds the byte at the end of the bytes held (R114). -/
theorem State.storeByte_buf {s : State} (h : s.fsync.buf.length = s.fsync.fill.toNat) (b : Byte) :
    (s.storeByte b).fsync.buf = s.fsync.buf ++ [b] := by
  rw [State.storeByte_fsync, bufWrite_of_length h]

/-- Settles O4: the byte is added at the end of the buffer (`State.storeByte_buf`), which is at index `fill`. -/
theorem appendStoresByteAtFill : Obligations.AppendStoresByteAtFill := by
  intro s b _ _ hfill hlen
  have hbuf : (s.storeByte b).fsync.buf = s.fsync.buf ++ [b] := State.storeByte_buf hlen b
  have hsucc : (s.storeByte b).fsync.fill.toNat = s.fsync.fill.toNat + 1 := fill_succ_toNat hfill
  refine ⟨(s.storeByte b).fsync, rfl, rfl, hsucc, ?length, ?stored, ?below⟩
  case length => rw [hsucc, hbuf, List.length_append, hlen]; rfl
  case stored => rw [hbuf, ← hlen]; exact List.getElem?_concat_length
  case below => exact fun k hk => by rw [hbuf, List.getElem?_append_left (hlen ▸ hk)]

/-- FS.CLOSE where the checksum matches (R115). -/
theorem exec_fsClose_match {s : State} {c : Byte} (h : chk (dataBytes s.freeCount s.fsync.buf) = c) :
    exec (.fsClose c) s = .next (s.quiet.emitPacket (bufPacket s.freeCount s.fsync.buf)).closeFrame :=
  if_pos h

/-- FS.CLOSE where it does not (R115). -/
theorem exec_fsClose_mismatch {s : State} {c : Byte} (h : chk (dataBytes s.freeCount s.fsync.buf) ≠ c) :
    exec (.fsClose c) s = .next (s.quiet.raiseFs .badSum).closeFrame :=
  if_neg h

/-- Either way the frame is left, with the buffer empty (R115). -/
theorem exec_fsClose_fsync {s t : State} {c : Byte} (h : exec (.fsClose c) s = .next t) : t.fsync = Fsync.reset := by
  by_cases hc : chk (dataBytes s.freeCount s.fsync.buf) = c
  · rw [exec_fsClose_match hc] at h; cases h; rfl
  · rw [exec_fsClose_mismatch hc] at h; cases h; rfl

/-- The comparison of FS.CLOSE on a full buffer, on numbers (R100, R115). -/
theorem chk_dataBytes_full_iff (free : Nat) (b0 b1 b2 b3 b4 b5 c : Byte) :
    chk (dataBytes free [b0, b1, b2, b3, b4, b5]) = c ↔
      (b1.toNat + b2.toNat + b3.toNat + b4.toNat + b5.toNat) % 256 = c.toNat := by
  rw [dataBytes_full, BitVec.toNat_eq, chk_toNat]
  simp only [List.map_cons, List.map_nil, List.sum_cons, List.sum_nil, Nat.add_zero, Nat.add_assoc]

/-- What FS.CLOSE drives and leaves on a match, with the packet's payload where the pack half is linked (R115, R135). -/
theorem State.emitPacket_closeFrame (s : State) (p : ControlPacket) : (s.quiet.emitPacket p).closeFrame =
    { s with
      fsync := Fsync.reset
      freeCount := s.freeCount + 1
      out := { Outputs.idle with
        pkt := some p
        tx := match s.params.link with
          | .radio => some (payloadEncode p)
          | .direct => none } } := by
  unfold State.emitPacket
  rcases hl : s.params.link with _ | _ <;> simp only [State.quiet_params, hl] <;> rfl

/-- Settles O5: the branch is `chk_dataBytes_full_iff`; on a match `bufPacket_full` is the packet and
`payloadEncode_bytes` its payload. -/
theorem closeValidatesThenLeavesFrame : Obligations.CloseValidatesThenLeavesFrame := by
  intro s b0 b1 b2 b3 b4 b5 c hbuf
  have hsum := chk_dataBytes_full_iff s.freeCount b0 b1 b2 b3 b4 b5 c
  rw [← hbuf] at hsum
  refine ⟨fun hmatch => ?_, fun hmismatch => ⟨?_, rfl⟩⟩
  · rw [exec_fsClose_match (hsum.2 hmatch), State.emitPacket_closeFrame, hbuf, bufPacket_full, payloadEncode_bytes]
    rfl
  · rw [exec_fsClose_mismatch (mt hsum.1 hmismatch)]
    rfl

/-! ### One step -/

/-- A step shows on FSYNC and on every output but `servo_upd` what the event's own operation does: the rest of the cycle is
FSAFE's (R188e). -/
theorem step_own_operation {s : State} {e : Event} {rest : List Event} (hi : s.input = e :: rest) :
    ∃ t u, exec (decodeEvent s.decodeCtx e) { s with input := rest } = .next t ∧ step s = .next u ∧
      u.fsync = t.fsync ∧ u.out = { t.out with servoUpd := u.out.servoUpd } ∧ u.input = rest := by
  obtain ⟨u, hu⟩ := stepAlwaysAnswersNext s
  rcases step_cases hu with ⟨hnil, -⟩ | ⟨e', rest', t, hcons, ht, hcycle⟩
  · rw [hi] at hnil; cases hnil
  · rw [hi] at hcons; cases hcons
    refine ⟨t, u, ht, hu, ?_⟩
    rcases hcycle with ⟨-, rfl⟩ | ⟨inputs, v, -, hv, rfl⟩
    · exact ⟨rfl, rfl, exec_input ht⟩
    · exact ⟨(State.withOutputsOf_fsync v t).trans (exec_decodeLinked_fsync hv), rfl, (exec_input hv).trans (exec_input ht)⟩

/-- Settles O6: `step_own_operation` for FSYNC and `step_alone` for FSAFE, each with its dispatch (`decodeRxw_eq`,
`decodeCtlw_eq`). -/
theorem stepDispatchesOnStrobesAndState : Obligations.StepDispatchesOnStrobesAndState := by
  refine ⟨?fsync, ?fsafe⟩
  case fsync =>
    intro s rst w inputs rest hi
    have hstep := step_own_operation hi
    simp only [decodeEvent, decodeRxw_eq] at hstep
    exact hstep
  case fsafe =>
    intro s rst w rest hi
    obtain ⟨t, ht⟩ := exec_next (decodeEvent s.decodeCtx (.ctl rst w)) { s with input := rest }
    rw [step_alone hi rfl ht, ← ht]
    simp only [decodeEvent, decodeCtlw_eq]

/-- Settles O51: the operation of `step_cons` by `decodeRxw_sentinel_inFrame`. -/
theorem sentinelInsideFrameIsData : Obligations.SentinelInsideFrameIsData := by
  intro s inputs rest hin hi
  have hop : decodeEvent s.decodeCtx (.rx false 0x1AA#9 inputs) =
      if s.fsync.fill.toNat ≤ 5 then .fsAppend 0xAA else .fsClose 0xAA := by
    rw [← decodeRxw_sentinel_inFrame, ← hin]; rfl
  refine ⟨fun hfill => ?_, fun hfull => ?_⟩
  · rw [step_cons hi, hop, if_pos hfill]
  · rw [step_cons hi, hop, if_neg (by omega)]

/-! ### Accepted sentinels -/

/-- Positions counted from `d` further on are `d` larger. -/
theorem acceptedSentinels_add (d skip i : Nat) (bytes : List Byte) :
    acceptedSentinels skip (i + d) bytes = (acceptedSentinels skip i bytes).map (· + d) := by
  induction bytes generalizing skip i with
  | nil => rfl
  | cons b rest ih =>
    have hnext : i + d + 1 = i + 1 + d := Nat.add_right_comm i d 1
    cases skip with
    | succ n => simp only [acceptedSentinels, hnext, ih]
    | zero =>
      simp only [acceptedSentinels, hnext, ih]
      split <;> simp only [List.map_cons]

/-- No sentinel is accepted among the bytes that belong to a window. -/
theorem acceptedSentinels_skip (i : Nat) (inside rest : List Byte) :
    acceptedSentinels inside.length i (inside ++ rest) = acceptedSentinels 0 (i + inside.length) rest := by
  induction inside generalizing i with
  | nil => rfl
  | cons b inside ih =>
    simp only [List.length_cons, List.cons_append, acceptedSentinels, ih]
    rw [Nat.add_right_comm, Nat.add_assoc]

/-- A byte other than the sentinel is passed over. -/
theorem acceptedSentinels_plain {b : Byte} (h : b ≠ Config.sentinel) (rest : List Byte) :
    acceptedSentinels 0 0 (b :: rest) = (acceptedSentinels 0 0 rest).map (· + 1) := by
  rw [acceptedSentinels, if_neg h, acceptedSentinels_add 1]

/-- The sentinel of a window is accepted, and the next one is sought after the window. -/
theorem acceptedSentinels_window {window : List Byte} (hlen : window.length = 7)
    (hhead : window[0]? = some Config.sentinel) (rest : List Byte) :
    acceptedSentinels 0 0 (window ++ rest) = 0 :: (acceptedSentinels 0 0 rest).map (· + 7) := by
  obtain _ | ⟨b, inside⟩ := window
  · cases hlen
  · obtain rfl : b = Config.sentinel := Option.some.inj hhead
    have hinside : inside.length = Config.frameLen - 1 := Nat.succ.inj hlen
    rw [List.cons_append, acceptedSentinels, if_pos rfl, ← hinside, acceptedSentinels_skip, hinside,
      ← acceptedSentinels_add]
    rfl

/-! ### The frames of a stream -/

/-- The seven bytes of a window, as one word (R9, R70). -/
def wordOf (window : List Byte) : BitVec 56 := BitVec.ofNat 56 (leNat window)

theorem windowAt_zero {window : List Byte} (hlen : window.length = 7) (rest : List Byte) :
    windowAt (window ++ rest) 0 = wordOf window := by
  rw [windowAt, wordOf, List.drop_zero, List.take_left' (show window.length = Config.frameLen from hlen)]

/-- A window that starts after the leading bytes is that of the rest. -/
theorem windowAt_append (pre rest : List Byte) (k : Nat) :
    windowAt (pre ++ rest) (k + pre.length) = windowAt rest k := by
  rw [windowAt, windowAt, Nat.add_comm, List.drop_length_add_append]

/-- Byte `i` of a window's word is its `i`-th byte. -/
theorem byteAt_wordOf {window : List Byte} {i : Nat} {b : Byte} (hlen : window.length = 7) (hb : window[i]? = some b) :
    byteAt (wordOf window) i = b :=
  byteAt_ofNat_leNat hb (by rw [hlen])

/-- Byte `n` of a stream is the seventh of a window at an accepted sentinel, and the window is a valid frame that holds the
packet (R118). -/
def EndsFrame (stream : List Byte) (n : Nat) (q : ControlPacket) : Prop :=
  ∃ k ∈ acceptedSentinels 0 0 stream,
    n = k + 6 ∧ n < stream.length ∧ validFrame (windowAt stream k) = true ∧ frameDecode (windowAt stream k) = q

/-- No frame ends before the seventh byte. -/
theorem not_endsFrame_of_lt {stream : List Byte} {n : Nat} (h : n < 6) (q : ControlPacket) : ¬EndsFrame stream n q := by
  rintro ⟨k, -, hn, -⟩
  omega

/-- No frame ends beyond the stream. -/
theorem not_endsFrame_of_le {stream : List Byte} {n : Nat} (h : stream.length ≤ n) (q : ControlPacket) :
    ¬EndsFrame stream n q := by
  rintro ⟨k, -, -, hlt, -⟩
  omega

/-- Leading bytes only move the end of a frame, if they only move the accepted sentinel that it starts at. -/
theorem endsFrame_append_iff {pre rest : List Byte} {n : Nat} {q : ControlPacket}
    (h : ∀ k, k + 6 = n + pre.length → (k ∈ acceptedSentinels 0 0 (pre ++ rest) ↔
      k ∈ (acceptedSentinels 0 0 rest).map (· + pre.length))) :
    EndsFrame (pre ++ rest) (n + pre.length) q ↔ EndsFrame rest n q := by
  constructor
  · rintro ⟨k, hk, hn, hlt, hvalid, hq⟩
    obtain ⟨k, hk', rfl⟩ := List.mem_map.1 ((h k hn.symm).1 hk)
    rw [windowAt_append] at hvalid hq
    rw [List.length_append] at hlt
    exact ⟨k, hk', by omega, by omega, hvalid, hq⟩
  · rintro ⟨k, hk, rfl, hlt, hvalid, hq⟩
    refine ⟨k + pre.length, (h _ (by omega)).2 (List.mem_map_of_mem hk), by omega, ?_, ?_, ?_⟩
    · rw [List.length_append]; omega
    · rwa [windowAt_append]
    · rwa [windowAt_append]

/-- A byte other than the sentinel, where a frame could start, only moves the frames after it. -/
theorem endsFrame_plain {b : Byte} (h : b ≠ Config.sentinel) {rest : List Byte} {n : Nat} {q : ControlPacket} :
    EndsFrame (b :: rest) (n + 1) q ↔ EndsFrame rest n q :=
  endsFrame_append_iff (pre := [b]) fun k _ => by rw [List.singleton_append, acceptedSentinels_plain h]; rfl

/-- So does a window, whatever it holds. -/
theorem endsFrame_after_window {window : List Byte} (hlen : window.length = 7)
    (hhead : window[0]? = some Config.sentinel) {rest : List Byte} {n : Nat} {q : ControlPacket} :
    EndsFrame (window ++ rest) (n + 7) q ↔ EndsFrame rest n q := by
  rw [← hlen]
  refine endsFrame_append_iff fun k hk => ?_
  rw [acceptedSentinels_window hlen hhead, hlen, List.mem_cons, or_iff_right (by omega)]

/-- The last byte of a window ends a frame exactly if the window is a valid one. -/
theorem endsFrame_window {window : List Byte} (hlen : window.length = 7) (hhead : window[0]? = some Config.sentinel)
    {rest : List Byte} {q : ControlPacket} : EndsFrame (window ++ rest) 6 q ↔
      validFrame (wordOf window) = true ∧ frameDecode (wordOf window) = q := by
  constructor
  · rintro ⟨k, -, hk, -, hvalid, hq⟩
    obtain rfl : k = 0 := by omega
    rw [windowAt_zero hlen] at hvalid hq
    exact ⟨hvalid, hq⟩
  · rintro ⟨hvalid, hq⟩
    refine ⟨0, ?_, rfl, ?_, ?_, ?_⟩
    · rw [acceptedSentinels_window hlen hhead]; exact List.mem_cons_self
    · rw [List.length_append]; omega
    · rwa [windowAt_zero hlen]
    · rwa [windowAt_zero hlen]

/-! ### FSYNC on one byte -/

/-- A byte read from a full buffer is that of the word of the window that the next byte ends. -/
theorem bufRead_eq_byteAt {buf : List Byte} {c : Byte} (hlen : (buf ++ [c]).length = 7) (free : Nat) {i : Nat}
    (hi : i < buf.length) : bufRead free buf i = byteAt (wordOf (buf ++ [c])) i := by
  have hb : buf[i]? = some buf[i] := List.getElem?_eq_getElem hi
  rw [bufRead_of_getElem? hb, byteAt_wordOf hlen (by rw [List.getElem?_append_left hi, hb])]

/-- FS.CLOSE on a full buffer emits a packet exactly if the seven bytes are a valid frame, and it is the frame's (R75,
R115). -/
theorem exec_fsClose_pkt_iff {s t : State} {c : Byte} {q : ControlPacket} (hlen : s.fsync.buf.length = 6)
    (hhead : s.fsync.buf[0]? = some Config.sentinel) (h : exec (.fsClose c) s = .next t) :
    t.out.pkt = some q ↔
      validFrame (wordOf (s.fsync.buf ++ [c])) = true ∧ frameDecode (wordOf (s.fsync.buf ++ [c])) = q := by
  have hwindow : (s.fsync.buf ++ [c]).length = 7 := by rw [List.length_append, hlen]; rfl
  have hread {i : Nat} (hi : i < 6) : bufRead s.freeCount s.fsync.buf i = byteAt (wordOf (s.fsync.buf ++ [c])) i :=
    bufRead_eq_byteAt hwindow s.freeCount (hlen ▸ hi)
  have hsum : chk (dataBytes s.freeCount s.fsync.buf) = c ↔ validFrame (wordOf (s.fsync.buf ++ [c])) = true := by
    have hdata : dataBytes s.freeCount s.fsync.buf =
        Config.chkIndices.map (byteAt (wordOf (s.fsync.buf ++ [c]))) :=
      List.map_congr_left fun i hi => hread (Nat.lt_succ_of_le (mem_chkIndices.1 hi).2)
    have hfirst : byteAt (wordOf (s.fsync.buf ++ [c])) 0 = Config.sentinel :=
      (hread (by decide)).symm.trans (bufRead_of_getElem? hhead)
    have hlast : byteAt (wordOf (s.fsync.buf ++ [c])) 6 = c :=
      byteAt_wordOf hwindow (hlen ▸ List.getElem?_concat_length)
    rw [validFrame_iff_chk, hlast, hdata]
    exact (and_iff_right hfirst).symm
  have hpacket : bufPacket s.freeCount s.fsync.buf = frameDecode (wordOf (s.fsync.buf ++ [c])) :=
    packetAt_congr fun i _ hi => hread (Nat.lt_succ_of_le hi)
  by_cases hc : chk (dataBytes s.freeCount s.fsync.buf) = c
  · rw [exec_fsClose_match hc] at h
    cases h
    rw [State.closeFrame_out, State.emitPacket_out_pkt, hpacket, Option.some_inj]
    exact (and_iff_right (hsum.1 hc)).symm
  · rw [exec_fsClose_mismatch hc] at h
    cases h
    exact ⟨(nomatch ·), fun ⟨hvalid, _⟩ => absurd (hsum.2 hvalid) hc⟩

/-- What FSYNC makes of a byte, from `f` to `g` with its packet output: it keeps the byte as part of the window, passes it
over while scanning, or closes the window with it (R110). -/
inductive TakesByte (f : Fsync) (b : Byte) (g : Fsync) (pkt : Option ControlPacket) : Prop where
  | keeps (hlen : f.buf.length ≤ 5) (hbuf : g.buf = f.buf ++ [b]) (hpkt : pkt = none)
  | passes (hold : f.buf = []) (hplain : b ≠ Config.sentinel) (hbuf : g.buf = []) (hpkt : pkt = none)
  | closes (hlen : f.buf.length = 6) (hhead : f.buf[0]? = some Config.sentinel) (hbuf : g.buf = [])
      (hpkt : ∀ q, pkt = some q ↔ validFrame (wordOf (f.buf ++ [b])) = true ∧ frameDecode (wordOf (f.buf ++ [b])) = q)

/-- Scanning, the buffer holds nothing (R23, R24). -/
theorem Fsync.Inv.buf_of_scanning {f : Fsync} (h : f.Inv) (hscan : f.inFrame = false) : f.buf = [] :=
  List.eq_nil_of_length_eq_zero (h.holds_fill_bytes.trans (congrArg BitVec.toNat (h.scanning_iff.1 hscan)))

/-- The operation that a byte selects takes it in one of these ways. -/
theorem exec_takesByte {s t : State} {w : BitVec 9} (h : s.fsync.Inv) (hv : rxValid w = true)
    (ht : exec (decodeRxw s.fsync.inFrame s.fsync.fill w) s = .next t) :
    TakesByte s.fsync (rxData w) t.fsync t.out.pkt := by
  have hfill := h.fill_le
  have hlen := h.holds_fill_bytes
  rcases hin : s.fsync.inFrame with _ | _ <;> rw [hin] at ht
  · have hold : s.fsync.buf = [] := h.buf_of_scanning hin
    rw [decodeRxw_scanning hv] at ht
    split at ht
    case isTrue hsof =>
      cases ht
      exact .keeps (by rw [hold]; decide) (by rw [hold, hsof]; rfl) rfl
    case isFalse hplain =>
      cases ht
      exact .passes hold hplain hold rfl
  · rw [decodeRxw_inFrame hv] at ht
    split at ht
    case isTrue hle =>
      cases ht
      exact .keeps (hlen ▸ hle) (State.storeByte_buf (s := s.quiet) hlen (rxData w)) rfl
    case isFalse hgt =>
      have hfull : s.fsync.buf.length = 6 := by omega
      have hhead := h.starts_with_sentinel hin
      exact .closes hfull hhead (by rw [exec_fsClose_fsync ht, Fsync.reset_buf]) fun q => exec_fsClose_pkt_iff hfull hhead ht

/-! ### FSYNC on a stream -/

/-- A cycle of the link is the first step of the run: it leaves FSYNC or has it take the byte, whatever FSAFE samples, and
keeps FSYNC's invariants. -/
theorem observeEvents_cycle {s : State} (h : s.fsync.Inv) (c : LinkCycle) (es : List Event) :
    ∃ u : State, s.observeEvents (c.event :: es) = u.observation :: u.observeEvents es ∧ u.fsync.Inv ∧
      (rxValid c.rxw = false → u.fsync = s.fsync ∧ u.observation.packet = none) ∧
      (rxValid c.rxw = true → TakesByte s.fsync (rxData c.rxw) u.fsync u.observation.packet) := by
  obtain ⟨t, u, ht, hu, hfsync, hout, -⟩ := step_own_operation (s := { s with input := c.event :: es }) rfl
  have hpkt : u.observation.packet = t.out.pkt := (congrArg Outputs.pkt hout).trans rfl
  change exec (decodeRxw s.fsync.inFrame s.fsync.fill c.rxw) { s with input := es } = .next t at ht
  have hinv : u.fsync.Inv := fsyncInvariantsHoldAlways.2 { s with input := c.event :: es } u h hu
  refine ⟨u, observeEvents_cons hu, hinv, fun hv => ?idle, fun hv => ?byte⟩ <;> rw [hfsync, hpkt]
  case idle =>
    rw [decodeRxw_idle hv] at ht
    cases ht
    exact ⟨rfl, rfl⟩
  case byte => exact exec_takesByte (s := { s with input := es }) h hv ht

theorem presentedBytes_cons_idle {w : BitVec 9} (h : rxValid w = false) (ws : List (BitVec 9)) :
    presentedBytes (w :: ws) = presentedBytes ws := by
  simp only [presentedBytes, List.filter_cons, h, reduceCtorEq, if_false]

theorem presentedBytes_cons_byte {w : BitVec 9} (h : rxValid w = true) (ws : List (BitVec 9)) :
    presentedBytes (w :: ws) = rxData w :: presentedBytes ws := by
  simp only [presentedBytes, List.filter_cons, h, if_true, List.map_cons]

theorem shownAtBytes_cons_idle {w : BitVec 9} (h : rxValid w = false) (ws : List (BitVec 9)) (o : Observation)
    (os : List Observation) : shownAtBytes (w :: ws) (o :: os) = shownAtBytes ws os := by
  simp only [shownAtBytes, List.zip_cons_cons, List.filter_cons, h, reduceCtorEq, if_false]

theorem shownAtBytes_cons_byte {w : BitVec 9} (h : rxValid w = true) (ws : List (BitVec 9)) (o : Observation)
    (os : List Observation) : shownAtBytes (w :: ws) (o :: os) = o :: shownAtBytes ws os := by
  simp only [shownAtBytes, List.zip_cons_cons, List.filter_cons, h, if_true, List.map_cons]

/-- As many events present a byte as there are bytes presented, if each word has its observation. -/
theorem shownAtBytes_length {ws : List (BitVec 9)} {os : List Observation} (h : ws.length = os.length) :
    (shownAtBytes ws os).length = (presentedBytes ws).length := by
  have hwords : (ws.zip os).map Prod.fst = ws := List.map_fst_zip (Nat.le_of_eq h)
  conv_rhs => rw [← hwords]
  simp only [shownAtBytes, presentedBytes, List.filter_map, List.length_map]
  rfl

/-- The packets shown from a state that meets the invariants are those of the frames of the stream that begins with the
bytes held: a byte that is kept moves from the stream's rest to its held part, a byte passed over and a closed window are
no part of any later frame. -/
theorem shownAtBytes_packet_iff (cycles : List LinkCycle) {s : State} (h : s.fsync.Inv) (j : Nat) (q : ControlPacket) :
    (shownAtBytes (cycles.map LinkCycle.rxw) (s.observeEvents (cycles.map LinkCycle.event)))[j]?.bind
        Observation.packet = some q ↔
      EndsFrame (s.fsync.buf ++ presentedBytes (cycles.map LinkCycle.rxw)) (j + s.fsync.buf.length) q := by
  induction cycles generalizing s j with
  | nil =>
    refine iff_of_false (nomatch ·) (not_endsFrame_of_le ?_ q)
    rw [List.length_append]
    exact Nat.le_add_left _ j
  | cons c cycles ih =>
    obtain ⟨u, hobs, hinv, hidle, hbyte⟩ := observeEvents_cycle h c (cycles.map LinkCycle.event)
    rw [List.map_cons, List.map_cons, hobs]
    rcases hv : rxValid c.rxw with _ | _
    · rw [shownAtBytes_cons_idle hv, presentedBytes_cons_idle hv, ih hinv, (hidle hv).1]
    · rw [shownAtBytes_cons_byte hv, presentedBytes_cons_byte hv]
      cases hbyte hv with
      | keeps hlen hbuf hpkt =>
        cases j with
        | zero =>
          rw [List.getElem?_cons_zero, Option.bind_some, hpkt]
          exact iff_of_false (nomatch ·) (not_endsFrame_of_lt (by omega) q)
        | succ j =>
          rw [List.getElem?_cons_succ, ih hinv, hbuf, ← List.append_cons, List.length_append, List.length_singleton,
            Nat.succ_add_eq_add_succ, Nat.succ_eq_add_one]
      | passes hold hplain hbuf hpkt =>
        rw [hold, List.nil_append, List.length_nil, Nat.add_zero]
        cases j with
        | zero =>
          rw [List.getElem?_cons_zero, Option.bind_some, hpkt]
          exact iff_of_false (nomatch ·) (not_endsFrame_of_lt (by decide) q)
        | succ j => rw [List.getElem?_cons_succ, ih hinv, hbuf, endsFrame_plain hplain]; rfl
      | closes hlen hhead hbuf hpkt =>
        have hwlen : (s.fsync.buf ++ [rxData c.rxw]).length = 7 := by rw [List.length_append, hlen]; rfl
        have hwhead : (s.fsync.buf ++ [rxData c.rxw])[0]? = some Config.sentinel := by
          rw [List.getElem?_append_left (by omega), hhead]
        rw [List.append_cons, hlen]
        cases j with
        | zero =>
          rw [Nat.zero_add, endsFrame_window hwlen hwhead, List.getElem?_cons_zero, Option.bind_some, hpkt]
        | succ j =>
          rw [List.getElem?_cons_succ, ih hinv, hbuf, Nat.succ_add_eq_add_succ, endsFrame_after_window hwlen hwhead]
          rfl

/-- A FS.IDLE cycle shows no packet (R111). -/
theorem packet_none_of_idle (cycles : List LinkCycle) {s : State} (h : s.fsync.Inv) :
    ∀ x ∈ (cycles.map LinkCycle.rxw).zip (s.observeEvents (cycles.map LinkCycle.event)),
      rxValid x.1 = false → x.2.packet = none := by
  induction cycles generalizing s with
  | nil => exact fun x hx => nomatch hx
  | cons c cycles ih =>
    obtain ⟨u, hobs, hinv, hidle, -⟩ := observeEvents_cycle h c (cycles.map LinkCycle.event)
    rw [List.map_cons, List.map_cons, hobs, List.zip_cons_cons]
    intro x hx hv
    rcases List.mem_cons.1 hx with rfl | htail
    · exact (hidle hv).2
    · exact ih hinv x htail hv

/-- Settles O7: `shownAtBytes_packet_iff` from reset, where no byte is held. -/
theorem streamEmitsExactlyAcceptedValidFrames : Obligations.StreamEmitsExactlyAcceptedValidFrames := by
  intro p cycles
  have hreset : (State.resetWith p).fsync.Inv := Fsync.inv_reset
  refine ⟨shownAtBytes_length ?_, fun j q => shownAtBytes_packet_iff cycles hreset j q, packet_none_of_idle cycles hreset⟩
  rw [State.observeEvents, observe_length, List.length_map, List.length_map]

end Sys2Proof.Machine
end

section
/-! Proofs of 42_radio_payload.md: pack and unpack (R130 to R134), and the payloads that reach FSAFE in their own cycle, one
or a batch of them (R131, R136). -/

namespace Sys2Proof

/-! ### The payload's layout -/

/-- The layout PAYLOAD as bit fields (R72, R73). -/
theorem payloadDecode_eq (w : BitVec 40) :
    payloadDecode w = ⟨w.extractLsb' 0 16, w.extractLsb' 16 16, w.extractLsb' 32 8⟩ :=
  packetAt_byteAt w 0

/-- A field and the byte below it (R9). -/
theorem extract_append_byteAt {n : Nat} (w : BitVec n) (i k : Nat) :
    w.extractLsb' (8 * (i + 1)) k ++ byteAt w i = w.extractLsb' (8 * i) (k + 8) :=
  BitVec.extractLsb'_append_extractLsb'_eq_extractLsb' (Nat.mul_succ 8 i)

/-- Five bytes read as a packet and sent again are the same five bytes (R134). -/
theorem payloadEncode_payloadDecode (w : BitVec 40) : payloadEncode (payloadDecode w) = w := by
  have hhigh : byteAt w 4 ++ byteAt w 3 = w.extractLsb' (8 * 3) 16 := s16le_byteAt w 3
  rw [payloadDecode, packetAt_eq, payloadEncode_bytes]
  simp only [Nat.zero_add]
  rw [hhigh, extract_append_byteAt w 2, extract_append_byteAt w 1, extract_append_byteAt w 0]
  exact BitVec.extractLsb'_eq_self

end Sys2Proof

namespace Sys2Proof.Machine

/-! ### One operation -/

/-- Settles O15: the fields are what `payloadDecode` reads back. -/
theorem packLaysOutPayload : Obligations.PackLaysOutPayload := by
  intro s q
  have hback : (⟨(payloadEncode q).extractLsb' 0 16, (payloadEncode q).extractLsb' 16 16,
      (payloadEncode q).extractLsb' 32 8⟩ : ControlPacket) = q := by
    rw [← payloadDecode_eq, payloadDecode_payloadEncode]
  exact ⟨payloadEncode q, rfl, congrArg ControlPacket.axisX hback, congrArg ControlPacket.axisY hback,
    congrArg ControlPacket.button hback⟩

/-- Settles O16: PL.UNPACK is `State.emitUnpacked` of `payloadDecode` on the quiet state. -/
theorem unpackReadsPayload : Obligations.UnpackReadsPayload := by
  intro s w
  rw [← payloadDecode_eq]
  rfl

/-- Settles O17: PL.DRAIN is `State.raisePl` on the quiet state. -/
theorem drainOnlyRaisesDiagnosticThree : Obligations.DrainOnlyRaisesDiagnosticThree :=
  fun _ _ => ⟨rfl, rfl⟩

/-- Settles O18: `payloadDecode` and `payloadEncode` are inverse. -/
theorem packAndUnpackAreInverse : Obligations.PackAndUnpackAreInverse := by
  refine ⟨?unpackPacked, ?packUnpacked⟩
  case unpackPacked =>
    intro s t q ht
    cases ht
    exact ⟨payloadEncode q, _, rfl, rfl, congrArg some (payloadDecode_payloadEncode q)⟩
  case packUnpacked =>
    intro s t w ht
    cases ht
    exact ⟨payloadDecode w, _, rfl, rfl, congrArg some (payloadEncode_payloadDecode w)⟩

/-! ### One event of PLA -/

/-- A payload of five bytes is unpacked (R131). -/
theorem exec_decodePlw_payload {w : BitVec 49} (hvalid : plValid w = true) (hlen : plLen w = 5) (s : State) :
    exec (decodePlw w) s = .next { s with out := { Outputs.idle with
      upk := some ⟨(plData w).extractLsb' 0 16, (plData w).extractLsb' 16 16, (plData w).extractLsb' 32 8⟩ } } := by
  have hop : decodePlw w = .plUnpack (plData w) := (decodePlw_valid hvalid).trans (if_pos hlen)
  rw [hop]
  exact unpackReadsPayload s (plData w)

/-- A payload of another length is drained, and none is idle: only the diagnostic tells them apart (R132, R133). -/
theorem exec_decodePlw_no_payload {w : BitVec 49} (h : ¬(plValid w = true ∧ plLen w = 5)) (s : State) :
    exec (decodePlw w) s = .next { s with out := { Outputs.idle with
      plDiag := if plValid w = true then .badLen else .quiet } } := by
  rcases hvalid : plValid w with _ | _
  · rw [decodePlw_idle hvalid]; rfl
  · have hop : decodePlw w = .plDrain (plLen w) :=
      (decodePlw_valid hvalid).trans (if_neg fun hlen => h ⟨hvalid, hlen⟩)
    rw [hop]; rfl

/-- An event of PLA in the radio composition: PLA's operation, then FSAFE's on the packet that PLA unpacks (R131, R160). -/
theorem step_radio {s t u : State} {w : BitVec 49} {inputs : FsafeInputs} {rest : List Event}
    (hl : s.params.link = .radio) (hi : s.input = .pl w inputs :: rest)
    (ht : exec (decodePlw w) { s with input := rest } = .next t)
    (hu : exec (decodeLinked t.out.upk inputs) t = .next u) : step s = .next (u.withOutputsOf t) := by
  have hup : t.upstream = t.out.upk := State.upstream_radio (by rw [exec_params ht, hl])
  exact step_linked hi (by rw [hl]; rfl) ht (by rw [hup, hu])

/-- Settles O52: `step_radio` with FSF.PKT or FSF.PKTPOLL for a payload of five bytes, else with FSF.IDLE or FSF.POLL. -/
theorem unpackedPacketReachesFsafeInItsCycle : Obligations.UnpackedPacketReachesFsafeInItsCycle := by
  rintro s w ⟨_, poll, now⟩ rest hl hi rfl
  refine ⟨?packet, fun hno => ⟨?idle, ?poll⟩⟩
  case packet =>
    intro hvalid hlen
    have ht := exec_decodePlw_payload hvalid hlen { s with input := rest }
    obtain ⟨u, hu, hout⟩ := exec_decodeLinked_packet _ poll now _
    rw [step_radio hl hi ht hu, hout]
  case idle =>
    rintro rfl
    have ht := exec_decodePlw_no_payload hno { s with input := rest }
    rw [step_radio hl hi ht (by rw [Outputs.idle_upk, decodeLinked_idle]; rfl), State.quiet_withOutputsOf rfl]
  case poll =>
    rintro rfl
    have ht := exec_decodePlw_no_payload hno { s with input := rest }
    obtain ⟨u, hu⟩ := exec_next (.fsfPoll now) { s with input := rest }
    exact ⟨u, hu, step_radio hl hi ht (by rw [Outputs.idle_upk, decodeLinked_poll]; exact hu)⟩

/-! ### A batch of payloads -/

/-- PLA's event of one item of a batch. -/
def batchEvent (x : BitVec 49 × FsafeInputs) : Event := .pl x.1 x.2

/-- FSAFE once it has accepted a payload and no poll has followed (R163). -/
def Fsafe.accepted (p : Params) (x : BitVec 49 × FsafeInputs) : Fsafe where
  linkState := .active
  tsValid := true
  lastTs := x.2.now
  fresh := true
  servoAngle := mix p ((plData x.1).extractLsb' 0 16) ((plData x.1).extractLsb' 16 16)

/-- One event of a batch: a payload of five bytes is accepted and the update shown, anything else leaves FSAFE. -/
theorem step_batchEvent {s : State} {x : BitVec 49 × FsafeInputs} (hl : s.params.link = .radio)
    (hx : x.2.rst = false ∧ x.2.poll = false) (es : List Event) :
    ∃ t, step { s with input := batchEvent x :: es } = .next t ∧ t.params = s.params ∧
      (plValid x.1 = true ∧ plLen x.1 = 5 → t.fsafe = Fsafe.accepted s.params x ∧ t.out.servoUpd = true) ∧
      (¬(plValid x.1 = true ∧ plLen x.1 = 5) → t.fsafe = s.fsafe) := by
  obtain ⟨hrst, hpoll⟩ := hx
  obtain ⟨hpacket, hnone⟩ :=
    unpackedPacketReachesFsafeInItsCycle { s with input := batchEvent x :: es } x.1 x.2 es hl rfl hrst
  by_cases hpay : plValid x.1 = true ∧ plLen x.1 = 5
  · refine ⟨_, hpacket hpay.1 hpay.2, rfl, fun _ => ⟨?_, rfl⟩, fun hno => absurd hpay hno⟩
    rw [hpoll]; rfl
  · exact ⟨_, (hnone hpay).1 hpoll, rfl, fun h => absurd h hpay, fun _ => rfl⟩

/-- The event of a payload of five bytes shows it accepted, wherever in the batch it stands (R136, R218). -/
theorem observeEvents_batch {batch : List (BitVec 49 × FsafeInputs)} {s : State} {k : Nat} {x : BitVec 49 × FsafeInputs}
    (hl : s.params.link = .radio) (hb : ∀ y ∈ batch, y.2.rst = false ∧ y.2.poll = false) (hk : batch[k]? = some x)
    (hpay : plValid x.1 = true ∧ plLen x.1 = 5) :
    ∃ o, (s.observeEvents (batch.map batchEvent))[k]? = some o ∧
      o.servoAngle = (Fsafe.accepted s.params x).servoAngle ∧ o.failsafe = false ∧ o.out.servoUpd = true := by
  induction batch generalizing s k with
  | nil => cases hk
  | cons y batch ih =>
    obtain ⟨hy, hb⟩ := List.forall_mem_cons.1 hb
    obtain ⟨t, ht, hp, haccept, -⟩ := step_batchEvent hl hy (batch.map batchEvent)
    rw [List.map_cons, observeEvents_cons ht]
    cases k with
    | zero =>
      cases hk
      obtain ⟨hfsafe, hupd⟩ := haccept hpay
      exact ⟨t.observation, rfl, by rw [State.observation_servoAngle, hfsafe],
        by rw [State.observation_failsafe, hfsafe]; rfl, hupd⟩
    | succ k =>
      rw [← hp] at hl ⊢
      exact ih hl hb hk

/-- Payloads of other lengths and empty cycles leave FSAFE, however many (R132, R133). -/
theorem runEvents_batch_no_payload {batch : List (BitVec 49 × FsafeInputs)} {s : State} (hl : s.params.link = .radio)
    (hb : ∀ y ∈ batch, y.2.rst = false ∧ y.2.poll = false)
    (hno : ∀ y ∈ batch, ¬(plValid y.1 = true ∧ plLen y.1 = 5)) :
    (s.runEvents (batch.map batchEvent)).fsafe = s.fsafe := by
  induction batch generalizing s with
  | nil => rfl
  | cons y batch ih =>
    obtain ⟨hy, hb⟩ := List.forall_mem_cons.1 hb
    obtain ⟨hynone, hno⟩ := List.forall_mem_cons.1 hno
    obtain ⟨t, ht, hp, -, hkeep⟩ := step_batchEvent hl hy (batch.map batchEvent)
    rw [List.map_cons, runEvents_cons ht, ih (by rw [hp, hl]) hb hno, hkeep hynone]

/-- The last payload of five bytes decides FSAFE, whatever came before it (R67, R169). -/
theorem runEvents_batch_last_payload {before after : List (BitVec 49 × FsafeInputs)} {x : BitVec 49 × FsafeInputs}
    {s : State} (hl : s.params.link = .radio)
    (hb : ∀ y ∈ before ++ x :: after, y.2.rst = false ∧ y.2.poll = false) (hpay : plValid x.1 = true ∧ plLen x.1 = 5)
    (hno : ∀ y ∈ after, ¬(plValid y.1 = true ∧ plLen y.1 = 5)) :
    (s.runEvents ((before ++ x :: after).map batchEvent)).fsafe = Fsafe.accepted s.params x := by
  induction before generalizing s with
  | nil =>
    obtain ⟨hx, hb⟩ := List.forall_mem_cons.1 hb
    obtain ⟨t, ht, hp, haccept, -⟩ := step_batchEvent hl hx (after.map batchEvent)
    rw [List.nil_append, List.map_cons, runEvents_cons ht, runEvents_batch_no_payload (by rw [hp, hl]) hb hno,
      (haccept hpay).1]
  | cons y before ih =>
    obtain ⟨hy, hb⟩ := List.forall_mem_cons.1 hb
    obtain ⟨t, ht, hp, -, -⟩ := step_batchEvent hl hy ((before ++ x :: after).map batchEvent)
    rw [List.cons_append, List.map_cons, runEvents_cons ht, ih (by rw [hp, hl]) hb, hp]

/-- Settles O53: `observeEvents_batch` for each event, `runEvents_batch_last_payload` for the state after the batch. -/
theorem batchOfPayloadsIsAcceptedInOrder : Obligations.BatchOfPayloadsIsAcceptedInOrder := by
  intro s batch hl hb events
  refine ⟨?shown, ?after⟩
  case shown =>
    intro k w inputs hk hvalid hlen
    obtain ⟨o, ho, hangles, hpin, hupd⟩ := observeEvents_batch hl hb hk ⟨hvalid, hlen⟩
    have hobs : (s.observeEvents events)[k]? = some o := ho
    rw [hobs, Option.map_some, hangles, hpin, hupd]
    rfl
  case after =>
    rintro before after w inputs rfl hvalid hlen hno
    exact runEvents_batch_last_payload hl hb ⟨hvalid, hlen⟩ hno

end Sys2Proof.Machine
end

section
/-! Proofs of 43_axis_mapper.md: the integer rule of AX.MAP (R140, R141) and its properties (R142), the mirror (R143,
R144) and the mix (R145). -/

namespace Sys2Proof.Machine

/-! ### The clamps -/

/-- `clamp` of R11 between ordered bounds, by `min` and `max`. -/
theorem clamp_eq_max_min {v lo hi : Int} (h : lo ≤ hi) : clamp v lo hi = max lo (min hi v) := by
  unfold clamp; split_ifs <;> omega

/-- The angle that degrees narrow to (R6, R29), by `min` and `max`. -/
theorem angleOf_eq_max_min (d : Int) : ((angleOf d).toNat : Int) = max 0 (min 180 d) :=
  (angleOf_toNat d).trans (clamp_eq_max_min (by decide))

/-! ### The axis value, clamped -/

/-- The axis value clamped to -32767..32767, the first step of R140. -/
def clampedAxis (raw : AxisWord) : Int := max (-32767) (min 32767 raw.toInt)

theorem clampedAxis_mono {r₁ r₂ : AxisWord} (h : r₁.toInt ≤ r₂.toInt) : clampedAxis r₁ ≤ clampedAxis r₂ :=
  max_le_max_left _ (min_le_min_left _ h)

/-- Only -32768 has no negation in 16 bits, and the clamp is symmetric. -/
theorem clampedAxis_neg {raw : AxisWord} (h : raw ≠ 0x8000) : clampedAxis (-raw) = -clampedAxis raw := by
  have hneg : (-raw).toInt = -raw.toInt := BitVec.toInt_neg_of_ne_intMin h
  unfold clampedAxis
  omega

/-! ### The delta -/

theorem axisDelta_eq (travel : Nat) (raw : AxisWord) :
    axisDelta travel raw = (clampedAxis raw * travel).tdiv 32767 := by
  have hclamp : clamp raw.toInt (-Config.axisDiv) Config.axisDiv = clampedAxis raw := clamp_eq_max_min (by decide)
  rw [axisDelta, hclamp]
  rfl

/-- What the delta leaves of the exact product is the remainder of the division by `AXIS_DIV` (R141). -/
theorem axisDelta_mul_add_tmod (travel : Nat) (raw : AxisWord) :
    axisDelta travel raw * 32767 + (clampedAxis raw * travel).tmod 32767 = clampedAxis raw * travel := by
  rw [axisDelta_eq]
  exact Int.tdiv_mul_add_tmod _ _

theorem axisDelta_mono (travel : Nat) {r₁ r₂ : AxisWord} (h : r₁.toInt ≤ r₂.toInt) :
    axisDelta travel r₁ ≤ axisDelta travel r₂ := by
  have hprod : clampedAxis r₁ * travel ≤ clampedAxis r₂ * travel :=
    Int.mul_le_mul_of_nonneg_right (clampedAxis_mono h) (Int.natCast_nonneg travel)
  rw [axisDelta_eq, axisDelta_eq]
  exact Int.tdiv_le_tdiv (by decide) hprod

/-- Division toward zero is symmetric about zero. -/
theorem axisDelta_neg (travel : Nat) {raw : AxisWord} (h : raw ≠ 0x8000) :
    axisDelta travel (-raw) = -axisDelta travel raw := by
  rw [axisDelta_eq, axisDelta_eq, clampedAxis_neg h, Int.neg_mul, Int.neg_tdiv]

/-- At 0 and at the extremes, where the clamped value is a multiple of `AXIS_DIV`, the delta is that multiple of `TRAVEL`. -/
theorem axisDelta_of_clampedAxis (travel : Nat) {raw : AxisWord} {k : Int} (h : clampedAxis raw = 32767 * k) :
    axisDelta travel raw = k * travel := by
  rw [axisDelta_eq, h, Int.mul_assoc]
  exact Int.mul_tdiv_cancel_left _ (by decide)

/-- Settles O24: the delta is the quotient toward zero (`axisDelta_eq`), and what it leaves of the product is a remainder
(`axisDelta_mul_add_tmod`), smaller than the divisor. -/
theorem axisDeltaRoundsTowardCenter : Obligations.AxisDeltaRoundsTowardCenter := by
  intro travel raw exact
  have hdelta : axisDelta travel raw = exact.tdiv 32767 := axisDelta_eq travel raw
  refine ⟨?close, ?inward, ?divisible⟩
  case close =>
    have hsplit : axisDelta travel raw * 32767 + exact.tmod 32767 = exact := axisDelta_mul_add_tmod travel raw
    have hdiff : axisDelta travel raw * 32767 - exact = -exact.tmod 32767 := by omega
    rw [hdiff, Int.natAbs_neg, Int.natAbs_tmod]
    exact Nat.mod_lt _ (by decide)
  case inward =>
    rw [hdelta, Int.natAbs_mul, Int.natAbs_tdiv]
    exact Nat.div_mul_le_self _ _
  case divisible =>
    intro hdvd
    rw [hdelta]
    exact Int.tdiv_mul_cancel hdvd

/-! ### AX.MAP -/

theorem mapAxis_toNat (travel : Nat) (raw : AxisWord) :
    ((mapAxis travel raw).toNat : Int) = max 0 (min 180 (90 + axisDelta travel raw)) :=
  angleOf_eq_max_min _

/-- Settles O21: AX.MAP drives `mapAxis`, whose value is `mapAxis_toNat` with the delta of `axisDelta_eq`. -/
theorem axisMapFollowsIntegerRule : Obligations.AxisMapFollowsIntegerRule := by
  intro s raw
  refine ⟨mapAxis s.params.travel raw, rfl, ?_⟩
  rw [mapAxis_toNat, axisDelta_eq]
  rfl

theorem mapAxis_mono (travel : Nat) {r₁ r₂ : AxisWord} (h : r₁.toInt ≤ r₂.toInt) :
    (mapAxis travel r₁).toNat ≤ (mapAxis travel r₂).toNat := by
  have hdelta := axisDelta_mono travel h
  have h₁ := mapAxis_toNat travel r₁
  have h₂ := mapAxis_toNat travel r₂
  omega

/-- The clamp to 0..180 is symmetric about the centre, as the delta is about 0. -/
theorem mapAxis_neg (travel : Nat) {raw : AxisWord} (h : raw ≠ 0x8000) :
    (mapAxis travel (-raw)).toNat = 180 - (mapAxis travel raw).toNat := by
  have hdelta := axisDelta_neg travel h
  have hneg := mapAxis_toNat travel (-raw)
  have hpos := mapAxis_toNat travel raw
  omega

theorem mapAxis_center (travel : Nat) : (mapAxis travel 0).toNat = 90 := by
  have hdelta : axisDelta travel 0 = 0 * travel := axisDelta_of_clampedAxis travel (by decide)
  have := mapAxis_toNat travel 0
  omega

/-- The angle wherever the clamped value is the upper extreme. -/
theorem mapAxis_upper (travel : Nat) {raw : AxisWord} (h : clampedAxis raw = 32767 * 1) :
    (mapAxis travel raw).toNat = min 180 (90 + travel) := by
  have hdelta := axisDelta_of_clampedAxis travel h
  have := mapAxis_toNat travel raw
  omega

/-- The angle wherever the clamped value is the lower extreme: at -32767 and at -32768. -/
theorem mapAxis_lower (travel : Nat) {raw : AxisWord} (h : clampedAxis raw = 32767 * -1) :
    (mapAxis travel raw).toNat = 90 - travel := by
  have hdelta := axisDelta_of_clampedAxis travel h
  have := mapAxis_toNat travel raw
  omega

/-- The range lies between the angles of the extremes, by monotonicity (R142 (f)). -/
theorem mapAxis_mem_range (travel : Nat) (raw : AxisWord) :
    90 - travel ≤ (mapAxis travel raw).toNat ∧ (mapAxis travel raw).toNat ≤ min 180 (90 + travel) := by
  have hlow : (0x8000 : AxisWord).toInt ≤ raw.toInt := BitVec.le_toInt raw
  have hhigh : raw.toInt ≤ (0x7FFF : AxisWord).toInt := Int.le_sub_one_of_lt BitVec.toInt_lt
  rw [← mapAxis_lower travel (raw := 0x8000) (by decide), ← mapAxis_upper travel (raw := 0x7FFF) (by decide)]
  exact ⟨mapAxis_mono travel hlow, mapAxis_mono travel hhigh⟩

/-- Settles O22: (a) to (f) of R142 in order; they hold of every travel. -/
theorem axisMapPropertiesHold : Obligations.AxisMapPropertiesHold := fun travel _ =>
  ⟨mapAxis_center travel, mapAxis_upper travel (by decide), mapAxis_lower travel (by decide),
    mapAxis_lower travel (by decide), fun _ _ => mapAxis_mono travel, fun _ => mapAxis_neg travel,
    mapAxis_mem_range travel⟩

/-! ### AX.MIRROR -/

/-- On angles the mirror is its own inverse (R143). -/
theorem mirror_mirror {a : Byte} (h : a.toNat ≤ 180) : mirror (mirror a) = a := by
  apply BitVec.eq_of_toNat_eq
  rw [mirror_toNat, mirror_toNat]
  omega

/-- Settles O23: AX.MIRROR drives `mirror`, whose value is `mirror_toNat`. -/
theorem mirrorIsComplement : Obligations.MirrorIsComplement := by
  refine ⟨fun s a => ⟨mirror a, rfl, ?complement, ?aboveRange⟩, fun a => mirror_mirror⟩
  case complement =>
    intro h
    rw [mirror_toNat]
    omega
  case aboveRange =>
    intro h
    apply BitVec.eq_of_toNat_eq
    rw [mirror_toNat]
    exact Nat.sub_eq_zero_of_le h.le

/-- Settles O25: the clamp to 0..180 is symmetric about its middle, so both sides are the same number of degrees. -/
theorem mirrorBeforeAndAfterClampAgree : Obligations.MirrorBeforeAndAfterClampAgree := by
  intro v
  have hbefore := angleOf_eq_max_min (180 - v)
  have hafter := angleOf_eq_max_min v
  apply BitVec.eq_of_toNat_eq
  rw [mirror_toNat]
  omega

/-! ### AX.MIX -/

/-- A channel's angle is its axis's, or the complement where it is mirrored (R145). -/
theorem channelAngle_mapAxis_toNat (travel : Nat) (x y : AxisWord) (cfg : Channel) :
    (channelAngle (mapAxis travel x) (mapAxis travel y) cfg).toNat =
      let primary := (mapAxis travel (if cfg.axis = .x then x else y)).toNat
      if cfg.mirror then 180 - primary else primary := by
  obtain ⟨axis, mirrored⟩ := cfg
  cases mirrored
  case false => cases axis <;> rfl
  case true => cases axis <;> exact mirror_toNat _

/-- Settles O26: AX.MIX drives `mix`, which maps `channelAngle` over `CHCFG`. -/
theorem mixGivesEachChannelItsAxis : Obligations.MixGivesEachChannelItsAxis := by
  intro s x y
  refine ⟨mix s.params x y, rfl, mix_length s.params x y, ?channel⟩
  intro c cfg hcfg
  refine ⟨_, ?_, channelAngle_mapAxis_toNat s.params.travel x y cfg⟩
  rw [mix, List.getElem?_map, hcfg, Option.map_some]

end Sys2Proof.Machine
end

section
/-! Proofs of 44_failsafe.md: FSAFE's operations (R163 to R165), the timeout (R161, R167, R168, R172), the poll cycle (R169),
and over every event the output multiplexer (R166) and the return from Failsafe (R171). -/

namespace Sys2Proof.Machine

/-! ### The timeout -/

/-- A clock that reads `d` after a timestamp, modulo its wrap, has seen `d` elapse (R161). -/
theorem elapsed_add_left (lastTs d : Time) : elapsed (lastTs + d) lastTs = d := add_sub_cancel_left lastTs d

/-- Within one wrap of the clock the elapsed time is the true one (R172). -/
theorem elapsed_ofNat {accepted now : Nat} (hle : accepted ≤ now) (hlt : now - accepted < 2 ^ 32) :
    (elapsed (BitVec.ofNat 32 now) (BitVec.ofNat 32 accepted)).toNat = now - accepted := by
  rw [elapsed_toNat, BitVec.toNat_ofNat, BitVec.toNat_ofNat]
  omega

/-- Once a packet has come, only the time since then counts (R161). -/
theorem Fsafe.expired_iff_of_tsValid {f : Fsafe} (h : f.tsValid = true) (now : Time) :
    f.expired now = true ↔ 800 < (elapsed now f.lastTs).toNat := by
  simp [Fsafe.expired_iff, h]

theorem Fsafe.expired_eq_false_iff (f : Fsafe) (now : Time) :
    f.expired now = false ↔ f.tsValid = true ∧ (elapsed now f.lastTs).toNat ≤ 800 := by
  rw [← Bool.not_eq_true, Fsafe.expired_iff, not_or, Bool.not_eq_false, Nat.not_lt]

/-! ### FSAFE's operations -/

/-- FSF.PKT (R163). -/
theorem exec_fsfPkt (s : State) (q : ControlPacket) (now : Time) :
    exec (.fsfPkt q now) s = .next { s with
      fsafe := ⟨.active, true, now, true, mix s.params q.axisX q.axisY⟩
      out := { Outputs.idle with servoUpd := true } } := rfl

/-- POLL.FRESH (R164). -/
theorem exec_fsfPoll_fresh {s : State} (h : s.fsafe.fresh = true) (now : Time) :
    exec (.fsfPoll now) s = .next { s with fsafe := { s.fsafe with fresh := false }, out := Outputs.idle } :=
  congrArg Host.Outcome.next (State.pollCheck_fresh (s := s.quiet) h now)

/-- POLL.FORCE (R164). -/
theorem exec_fsfPoll_force {s : State} {now : Time} (hfresh : s.fsafe.fresh = false)
    (hexpired : s.fsafe.expired now = true) :
    exec (.fsfPoll now) s = .next { s with
      fsafe := { s.fsafe with linkState := .failsafe, servoAngle := List.replicate s.params.nch 90#8 }
      out := { Outputs.idle with servoUpd := true } } :=
  congrArg Host.Outcome.next (State.pollCheck_force (s := s.quiet) hfresh hexpired)

/-- POLL.HOLD (R164). -/
theorem exec_fsfPoll_hold {s : State} {now : Time} (hfresh : s.fsafe.fresh = false)
    (hexpired : s.fsafe.expired now = false) : exec (.fsfPoll now) s = .next { s with out := Outputs.idle } :=
  congrArg Host.Outcome.next (State.pollCheck_hold (s := s.quiet) hfresh hexpired)

/-- FSF.PKTPOLL (R165). -/
theorem exec_fsfPktPoll (s : State) (q : ControlPacket) (now : Time) :
    exec (.fsfPktPoll q now) s = .next { s with
      fsafe := ⟨.active, true, now, false, mix s.params q.axisX q.axisY⟩
      out := { Outputs.idle with servoUpd := true } } :=
  congrArg Host.Outcome.next (State.pollCheck_acceptPacket s.quiet q now now)

/-- Settles O27: `exec_fsfPkt`. -/
theorem packetMakesActiveAndLoadsAngles : Obligations.PacketMakesActiveAndLoadsAngles :=
  fun s q now => ⟨_, exec_fsfPkt s q now, rfl, rfl⟩

/-- Settles O29: the packet leaves `fresh` 1, so the poll that follows it is POLL.FRESH. -/
theorem packetWithPollIsPacketThenPoll : Obligations.PacketWithPollIsPacketThenPoll :=
  fun s q now => ⟨_, exec_fsfPktPoll s q now, rfl, rfl, _, _, exec_fsfPkt s q now, exec_fsfPoll_fresh rfl now, rfl⟩

/-- Settles O28: the three cases of the poll check, with the timeout on the numbers (`elapsed_toNat`). -/
theorem pollIsFreshForceOrHold : Obligations.PollIsFreshForceOrHold := by
  intro s now
  rw [← elapsed_toNat]
  refine ⟨fun hfresh => exec_fsfPoll_fresh hfresh now, ?force, ?hold⟩
  case force =>
    intro hfresh hexpired
    exact ⟨_, exec_fsfPoll_force hfresh ((Fsafe.expired_iff s.fsafe now).2 hexpired), rfl, rfl⟩
  case hold =>
    intro hfresh hts hwithin
    exact exec_fsfPoll_hold hfresh ((Fsafe.expired_eq_false_iff s.fsafe now).2 ⟨hts, hwithin⟩)

/-- Settles O30: POLL.FORCE leaves `fresh` 0, so the next expired poll is POLL.FORCE again, which writes what is there. -/
theorem forcingIsIdempotentAndRepeated : Obligations.ForcingIsIdempotentAndRepeated := by
  intro s t now later hfresh hexpired ht hagain
  rw [exec_fsfPoll_force hfresh hexpired] at ht
  cases ht
  exact ⟨exec_fsfPoll_force hfresh hagain, rfl⟩

/-- Settles O31: the elapsed time is 799, 800 and 801 whatever the timestamp (`elapsed_add_left`). -/
theorem timeoutBoundaryIsStrict : Obligations.TimeoutBoundaryIsStrict := by
  intro s hts hfresh
  have hold {d : Time} (hd : d.toNat ≤ 800) : s.fsafe.expired (s.fsafe.lastTs + d) = false :=
    (Fsafe.expired_eq_false_iff _ _).2 ⟨hts, by rwa [elapsed_add_left]⟩
  have force : s.fsafe.expired (s.fsafe.lastTs + 801) = true :=
    (Fsafe.expired_iff_of_tsValid hts _).2 (by rw [elapsed_add_left]; decide)
  exact ⟨exec_fsfPoll_hold hfresh (hold (by decide)), exec_fsfPoll_hold hfresh (hold (by decide)),
    exec_fsfPoll_force hfresh force⟩

/-- Settles O32: the timeout is expired exactly when the true elapsed time exceeds 800 ms (`elapsed_ofNat`). -/
theorem monotonicClockGivesTrueElapsedTime : Obligations.MonotonicClockGivesTrueElapsedTime := by
  intro s t accepted now hle hlt hts hfresh hlast ht
  have hexpired : s.fsafe.expired (BitVec.ofNat 32 now) = true ↔ 800 < now - accepted := by
    rw [Fsafe.expired_iff_of_tsValid hts, hlast, elapsed_ofNat hle hlt]
  rcases hx : s.fsafe.expired (BitVec.ofNat 32 now) with _ | _
  · have hwithin : ¬800 < now - accepted := by simp [← hexpired, hx]
    rw [exec_fsfPoll_hold hfresh hx] at ht
    cases ht
    exact ⟨⟨nofun, fun h => absurd h hwithin⟩, fun h => absurd h hwithin, fun _ => rfl⟩
  · have hpast : 800 < now - accepted := hexpired.1 hx
    rw [exec_fsfPoll_force hfresh hx] at ht
    cases ht
    exact ⟨⟨fun _ => hpast, fun _ => rfl⟩, fun _ => rfl, fun h => absurd hpast (Nat.not_lt.2 h)⟩

/-! ### A poll cycle -/

/-- FSAFE's event with a packet, all driven from outside. -/
def packetEvent (x : ControlPacket × Time) : Event := .ctl false (ctlWord false true x.1 x.2)

/-- FSAFE's event with a bare poll. -/
def pollEvent (now : Time) : Event := .ctl false (ctlWord true false ⟨0, 0, 0⟩ now)

/-- The event of a packet is FSF.PKT (R160). -/
theorem step_packetEvent (s : State) (x : ControlPacket × Time) (es : List Event) :
    step { s with input := packetEvent x :: es } = .next { s with
      fsafe := ⟨.active, true, x.2, true, mix s.params x.1.axisX x.1.axisY⟩
      out := { Outputs.idle with servoUpd := true }
      input := es } := by
  have hop : decodeEvent s.decodeCtx (packetEvent x) = .fsfPkt x.1 x.2 := decodeLinked_packet x.1 x.2
  have hexec := exec_fsfPkt { s with input := es } x.1 x.2
  exact step_alone rfl rfl (hop ▸ hexec)

/-- The event of a bare poll right after a packet is POLL.FRESH (R160, R164). -/
theorem step_pollEvent_fresh {s : State} (h : s.fsafe.fresh = true) (now : Time) (es : List Event) :
    step { s with input := pollEvent now :: es } =
      .next { s with fsafe := { s.fsafe with fresh := false }, out := Outputs.idle, input := es } := by
  have hop : decodeEvent s.decodeCtx (pollEvent now) = .fsfPoll now := decodeLinked_poll now
  have hexec := exec_fsfPoll_fresh (s := { s with input := es }) h now
  exact step_alone rfl rfl (hop ▸ hexec)

/-- Settles O33: by induction on the earlier packets, each of which leaves only FSAFE's registers to be written again; the
last one leaves `fresh` 1 for the poll to clear. -/
theorem pollCycleEndsWithLastPacket : Obligations.PollCycleEndsWithLastPacket := by
  intro s earlier last pollTime
  induction earlier generalizing s with
  | nil =>
    have hpacket := runEvents_cons (step_packetEvent s last [pollEvent pollTime])
    exact congrArg State.fsafe (hpacket.trans (runEvents_single (step_pollEvent_fresh rfl pollTime [])))
  | cons x earlier ih =>
    have hpacket := runEvents_cons (step_packetEvent s x ((earlier ++ [last]).map packetEvent ++ [pollEvent pollTime]))
    exact (congrArg State.fsafe hpacket).trans (ih _)

/-! ### The link state and the angles over every event -/

/-- An operation that accepts a packet makes FSAFE Active with the packet's mapped angles (R163, R165). -/
theorem exec_of_acceptedAxes_some {i : Instr} {s t : State} {x y : AxisWord} (h : exec i s = .next t)
    (ha : acceptedAxes i = some (x, y)) : t.fsafe.linkState = .active ∧ t.fsafe.servoAngle = mix s.params x y := by
  rcases (exec_fsafe_cases h).2 with
    ⟨q, now, rfl, hf⟩ | ⟨q, now, rfl, hf⟩ | ⟨now, rfl, -⟩ | ⟨line, rfl, -, -⟩ | ⟨hnone, -, -⟩
  · cases ha; rw [hf]; exact ⟨rfl, rfl⟩
  · cases ha; rw [hf]; exact ⟨rfl, rfl⟩
  · cases ha
  · cases ha
  · rw [hnone] at ha; cases ha

/-- An operation that accepts none leaves the link state and the angles, or enters Failsafe with 90 in every channel (R164,
R210). -/
theorem exec_of_acceptedAxes_none {i : Instr} {s t : State} (h : exec i s = .next t) (ha : acceptedAxes i = none) :
    (t.fsafe.linkState = s.fsafe.linkState ∧ t.fsafe.servoAngle = s.fsafe.servoAngle) ∨
    (t.fsafe.linkState = .failsafe ∧ t.fsafe.servoAngle = List.replicate s.params.nch 90#8) := by
  rcases (exec_fsafe_cases h).2 with
    ⟨q, now, rfl, -⟩ | ⟨q, now, rfl, -⟩ | ⟨now, rfl, hf⟩ | ⟨line, -, -, hf⟩ | ⟨-, -, hf⟩
  · cases ha
  · cases ha
  · rw [hf]
    rcases s.pollCheck_cases now with ⟨-, e⟩ | ⟨-, -, e⟩ | ⟨-, -, e⟩ <;> rw [e]
    · exact .inl ⟨rfl, rfl⟩
    · exact .inr ⟨rfl, rfl⟩
    · exact .inl ⟨rfl, rfl⟩
  · rw [hf]; exact .inr ⟨rfl, rfl⟩
  · rw [hf]; exact .inl ⟨rfl, rfl⟩

/-- So does an event in which FSAFE accepts a packet. -/
theorem step_of_acceptedAxes_some {s t : State} {e : Event} {rest : List Event} {x y : AxisWord}
    (hi : s.input = e :: rest) (h : step s = .next t) (ha : acceptedAxes (s.fsafeOperation e) = some (x, y)) :
    t.fsafe.linkState = .active ∧ t.fsafe.servoAngle = mix s.params x y := by
  obtain ⟨-, s₁, t₁, hp, -, hexec, hf⟩ := step_fsafe hi h
  rw [hf, ← hp]
  exact exec_of_acceptedAxes_some hexec ha

/-- So does an event in which it accepts none. -/
theorem step_of_acceptedAxes_none {s t : State} {e : Event} {rest : List Event}
    (hi : s.input = e :: rest) (h : step s = .next t) (ha : acceptedAxes (s.fsafeOperation e) = none) :
    (t.fsafe.linkState = s.fsafe.linkState ∧ t.fsafe.servoAngle = s.fsafe.servoAngle) ∨
    (t.fsafe.linkState = .failsafe ∧ t.fsafe.servoAngle = List.replicate s.params.nch 90#8) := by
  obtain ⟨-, s₁, t₁, hp, hs, hexec, hf⟩ := step_fsafe hi h
  rw [hf, ← hp, ← hs]
  exact exec_of_acceptedAxes_none hexec ha

theorem Fsafe.muxHolds_of_active {p : Params} {x y : AxisWord} {f : Fsafe} (hl : f.linkState = .active)
    (ha : f.servoAngle = mix p x y) : f.MuxHolds p x y := by
  rw [Fsafe.MuxHolds, hl, ha]

theorem Fsafe.muxHolds_of_failsafe {p : Params} {f : Fsafe} (hl : f.linkState = .failsafe)
    (ha : f.servoAngle = List.replicate p.nch 90#8) (x y : AxisWord) : f.MuxHolds p x y := by
  rw [Fsafe.MuxHolds, hl, ha]

/-- The multiplexer reads the link state and the angles only. -/
theorem Fsafe.MuxHolds.of_eq {p : Params} {x y : AxisWord} {f g : Fsafe} (h : f.MuxHolds p x y)
    (hl : g.linkState = f.linkState) (ha : g.servoAngle = f.servoAngle) : g.MuxHolds p x y := by
  rw [Fsafe.MuxHolds, hl, ha]
  exact h

/-- Settles O35: an accepted packet decides the link state and the angles (`step_of_acceptedAxes_some`); any other event
leaves both or enters Failsafe (`step_of_acceptedAxes_none`). -/
theorem multiplexerFollowsLastAcceptedPacket : Obligations.MultiplexerFollowsLastAcceptedPacket := by
  refine ⟨fun p x y => Fsafe.muxHolds_of_failsafe rfl rfl x y, ?step⟩
  intro s t e rest x y hi hmux hst axes
  have hp : t.params = s.params := (step_fsafe hi hst).1
  rw [hp]
  rcases ha : acceptedAxes (s.fsafeOperation e) with _ | ⟨x', y'⟩
  · have haxes : axes = (x, y) := congrArg (Option.getD · (x, y)) ha
    rw [haxes]
    rcases step_of_acceptedAxes_none hi hst ha with ⟨hl, hangles⟩ | ⟨hl, hangles⟩
    · exact hmux.of_eq hl hangles
    · exact Fsafe.muxHolds_of_failsafe hl hangles x y
  · have haxes : axes = (x', y') := congrArg (Option.getD · (x, y)) ha
    obtain ⟨hl, hangles⟩ := step_of_acceptedAxes_some hi hst ha
    rw [haxes]
    exact Fsafe.muxHolds_of_active hl hangles

/-- Settles O36: without a packet FSAFE keeps its link state or is in Failsafe, and with one it is Active. -/
theorem failsafeIsLeftOnlyByPacket : Obligations.FailsafeIsLeftOnlyByPacket := by
  intro s t e rest hi hst
  refine ⟨fun hs ht => ?only, fun x y ha => step_of_acceptedAxes_some hi hst ha⟩
  rcases ha : acceptedAxes (s.fsafeOperation e) with _ | _
  · rcases step_of_acceptedAxes_none hi hst ha with ⟨hl, -⟩ | ⟨hl, -⟩
    · rw [hl, hs] at ht; cases ht
    · rw [hl] at ht; cases ht
  · rfl

end Sys2Proof.Machine
end

section
/-! Proofs of 60_exceptions.md: the diagnostics and the packet output (R181, R183), the frame between the units (R188e), and
the ways into Failsafe (R189). -/

namespace Sys2Proof.Machine

/-! ### The frame between the units -/

/-- Only FSAFE's operations, which are those of CTLW, and RESET write FSAFE (R188e). -/
theorem exec_fsafe_of_format {i : Instr} {s t : State} (h : exec i s = .next t) (hctl : i.format ≠ .ctlw)
    (hrst : ∀ line, i.format ≠ .rst line) : t.fsafe = s.fsafe := by
  rcases (exec_fsafe_cases h).2 with
    ⟨q, now, rfl, -⟩ | ⟨q, now, rfl, -⟩ | ⟨now, rfl, -⟩ | ⟨line, rfl, -, -⟩ | ⟨-, -, hkept⟩
  · exact absurd rfl hctl
  · exact absurd rfl hctl
  · exact absurd rfl hctl
  · exact absurd rfl (hrst line)
  · exact hkept

/-- Only FSYNC's operations, which are those of RXW, and RESET write FSYNC (R188e). -/
theorem exec_fsync_of_format {i : Instr} {s t : State} (h : exec i s = .next t) (hrx : i.format ≠ .rxw)
    (hrst : ∀ line, i.format ≠ .rst line) : t.fsync = s.fsync := by
  rcases exec_fsync_cases h with ⟨rfl, -⟩ | ⟨b, rfl, -⟩ | ⟨⟨b, rfl⟩ | ⟨line, rfl, -⟩, -⟩ | hkept
  · exact absurd rfl hrx
  · exact absurd rfl hrx
  · exact absurd rfl hrx
  · exact absurd rfl (hrst line)
  · exact hkept

/-- Settles O50: an operation has one format, so it is outside the format of the other unit. -/
theorem unitsKeepOutOfEachOther : Obligations.UnitsKeepOutOfEachOther := by
  intro i s t h
  refine ⟨exec_params h, exec_input h, ?rxw, ?ctlw, ?neither⟩
  case rxw =>
    intro hi
    exact exec_fsafe_of_format h (by rw [hi]; nofun) (by rw [hi]; nofun)
  case ctlw =>
    intro hi
    exact exec_fsync_of_format h (by rw [hi]; nofun) (by rw [hi]; nofun)
  case neither =>
    intro hrx hctl hrst
    exact ⟨exec_fsync_of_format h hrx hrst, exec_fsafe_of_format h hctl hrst⟩

/-! ### The ways into Failsafe -/

/-- An operation that takes FSAFE from Active to Failsafe is a bare poll that forces, or a reset that reaches FSAFE (R189,
R164, R210). -/
theorem exec_enters_failsafe {i : Instr} {s t : State} (h : exec i s = .next t) (hs : s.fsafe.linkState = .active)
    (ht : t.fsafe.linkState = .failsafe) :
    (∃ now, i = .fsfPoll now ∧ s.fsafe.fresh = false ∧ s.fsafe.expired now = true ∧
      t.fsafe = { s.fsafe with linkState := .failsafe, servoAngle := List.replicate s.params.nch 90#8 }) ∨
    ∃ line, i = .reset line ∧ line ≠ .fsync := by
  rcases (exec_fsafe_cases h).2 with
    ⟨q, now, -, hf⟩ | ⟨q, now, -, hf⟩ | ⟨now, hi, hf⟩ | ⟨line, hi, hline, -⟩ | ⟨-, -, hf⟩
  · rw [hf] at ht; cases ht
  · rw [hf] at ht; cases ht
  · rcases s.pollCheck_cases now with ⟨-, e⟩ | ⟨hfresh, hexpired, e⟩ | ⟨-, -, e⟩ <;> rw [e] at hf
    · rw [hf, State.clearFresh_fsafe, hs] at ht; cases ht
    · exact .inl ⟨now, hi, hfresh, hexpired, hf⟩
    · rw [hf, hs] at ht; cases ht
  · exact .inr ⟨line, hi, hline⟩
  · rw [hf, hs] at ht; cases ht

/-- Settles O37: a step does one operation to FSAFE (`step_fsafe`), and `exec_enters_failsafe` says which it was. -/
theorem failsafeIsEnteredOnlyByExpiredPollOrReset : Obligations.FailsafeIsEnteredOnlyByExpiredPollOrReset := by
  intro s t e rest hi hst hs ht
  obtain ⟨-, s₁, t₁, hp, hs₁, hexec, ht₁⟩ := step_fsafe hi hst
  rw [← hs₁, ← hp, ht₁]
  exact exec_enters_failsafe hexec (by rw [hs₁, hs]) (by rw [← ht₁, ht])

/-! ### The diagnostics and the packet output -/

/-- The packet, `fs_diag` and `pl_diag` that an operation may drive (R181, R183): each operation that drives one of them
drives it alone, FS.CLOSE its packet or its diagnostic. -/
inductive Drives (i : Instr) : Option ControlPacket → Diag → Diag → Prop where
  | skip (h : i.mnemonic = "FS.SKIP") : Drives i none .skip .quiet
  | packet (h : i.mnemonic = "FS.CLOSE") (q : ControlPacket) : Drives i (some q) .quiet .quiet
  | badSum (h : i.mnemonic = "FS.CLOSE") : Drives i none .badSum .quiet
  | drain (h : i.mnemonic = "PL.DRAIN") : Drives i none .quiet .badLen
  | silent (h : i.mnemonic ∉ ["FS.SKIP", "FS.CLOSE", "PL.DRAIN"]) : Drives i none .quiet .quiet

/-- The poll check drives `servo_upd` at most (R164). -/
theorem State.pollCheck_out (s : State) (now : Time) :
    (s.pollCheck now).out = { s.out with servoUpd := (s.pollCheck now).out.servoUpd } := by
  rcases s.pollCheck_cases now with ⟨-, e⟩ | ⟨-, -, e⟩ | ⟨-, -, e⟩ <;> rw [e] <;> rfl

/-- A reset drives no output (R210). -/
theorem State.resetOn_out (s : State) (line : ResetLine) : (s.resetOn line).out = s.out := by
  cases line <;> rfl

/-- Every operation drives these outputs in one of the ways of `Drives`. -/
theorem exec_drives {i : Instr} {s t : State} (h : exec i s = .next t) :
    Drives i t.out.pkt t.out.fsDiag t.out.plDiag := by
  cases i
  case fsSkip => cases h; exact .skip rfl
  case fsClose c =>
    by_cases hc : chk (dataBytes s.freeCount s.fsync.buf) = c
    · rw [exec_fsClose_match hc, State.emitPacket_closeFrame] at h; cases h; exact .packet rfl _
    · rw [exec_fsClose_mismatch hc] at h; cases h; exact .badSum rfl
  case plDrain => cases h; exact .drain rfl
  case fsfPoll now => cases h; rw [State.pollCheck_out]; exact .silent (by simp [Instr.mnemonic])
  case fsfPktPoll q now => cases h; rw [State.pollCheck_out]; exact .silent (by simp [Instr.mnemonic])
  case reset line => cases h; rw [State.resetOn_out]; exact .silent (by simp [Instr.mnemonic])
  all_goals cases h; exact .silent (by simp [Instr.mnemonic])

/-- What a step shows of these outputs is what the event's own operation drives: FSAFE drives none of them. -/
theorem step_drives {s t : State} {e : Event} {rest : List Event} (hi : s.input = e :: rest) (h : step s = .next t) :
    Drives (decodeEvent s.decodeCtx e) t.out.pkt t.out.fsDiag t.out.plDiag := by
  obtain ⟨u, t', hexec, ht, -, hout, -⟩ := step_own_operation hi
  rw [h] at ht
  cases ht
  rw [hout]
  exact exec_drives hexec

/-- Each code tells its operation, and a packet tells FS.CLOSE (R181, R117, R183). -/
theorem Drives.codes {i : Instr} {pkt : Option ControlPacket} {fs pl : Diag} (h : Drives i pkt fs pl) :
    (fs.code = 1 ↔ i.mnemonic = "FS.SKIP") ∧
    (fs.code = 2 ↔ i.mnemonic = "FS.CLOSE" ∧ pkt = none) ∧
    (pl.code = 3 ↔ i.mnemonic = "PL.DRAIN") ∧
    (pkt.isSome = true → i.mnemonic = "FS.CLOSE" ∧ fs.code = 0) ∧
    (fs.code = 0 ∨ pl.code = 0) := by
  cases h with
  | skip h | packet h q | badSum h | drain h => simp [h, Diag.code]
  | silent h =>
    simp only [List.mem_cons, List.not_mem_nil, or_false, not_or] at h
    simp [h, Diag.code]

/-- Settles O49: the outputs of a step are those of its own operation (`step_drives`), read by `Drives.codes`. -/
theorem diagnosticsAndPacketsComeFromTheirOperation : Obligations.DiagnosticsAndPacketsComeFromTheirOperation :=
  fun _ _ _ _ hi hst => (step_drives hi hst).codes

end Sys2Proof.Machine
end

section
/-! Proofs of 70_reset_and_hazards.md: RESET (R210), the recognition of a frame after six plain bytes (R215), and the
failsafe without polls (R219). -/

namespace Sys2Proof.Machine

/-! ### RESET -/

/-- Settles O40: per line, the state after RESET is the quiet state with that line's units reset. -/
theorem resetLoadsUnitResetState : Obligations.ResetLoadsUnitResetState := by
  intro s line
  cases line with
  | fsync =>
    exact ⟨s.quiet.resetFsync, rfl, rfl, rfl, rfl, nofun, fun _ => rfl, fun _ => rfl, fun h => absurd rfl h⟩
  | fsafe =>
    exact ⟨s.quiet.resetFsafe, rfl, rfl, rfl, rfl, fun _ => rfl, fun h => absurd rfl h, nofun,
      fun _ => ⟨rfl, rfl, rfl, rfl, rfl⟩⟩
  | both =>
    exact ⟨s.quiet.resetFsync.resetFsafe, rfl, rfl, rfl, rfl, nofun, fun _ => rfl, nofun,
      fun _ => ⟨rfl, rfl, rfl, rfl, rfl⟩⟩

/-! ### The stream after six plain bytes -/

/-- Bytes other than the sentinel, where a frame could start, only move the frames after them. -/
theorem endsFrame_plain_append {gap : List Byte} (h : ∀ b ∈ gap, b ≠ Config.sentinel) {rest : List Byte} {n : Nat}
    {q : ControlPacket} : EndsFrame (gap ++ rest) (n + gap.length) q ↔ EndsFrame rest n q := by
  induction gap with
  | nil => rfl
  | cons b gap ih =>
    obtain ⟨hb, hgap⟩ := List.forall_mem_cons.1 h
    rw [List.cons_append, List.length_cons, ← Nat.add_assoc, endsFrame_plain hb, ih hgap]

/-- The reference encoder's seven bytes, where a frame can start, are a frame of their packet (R74). -/
theorem endsFrame_frameEncode (q : ControlPacket) : EndsFrame (frameEncode q) 6 q := by
  have hword : (wordOf (frameEncode q)).toNat = leNat (frameEncode q) :=
    (BitVec.toNat_ofNat _ _).trans (Nat.mod_eq_of_lt (leNat_lt (frameEncode q)))
  obtain ⟨hlen, hvalid, hpacket⟩ := encodedFrameIsValidAndDecodesBack q (wordOf (frameEncode q)) hword
  rw [← List.append_nil (frameEncode q)]
  exact (endsFrame_window hlen rfl).2 ⟨hvalid, hpacket⟩

/-- Six plain bytes end the window that FSYNC may hold open, and no other starts among them: the frame that follows is
recognised (R215). -/
theorem endsFrame_after_gap {f : Fsync} (h : f.Inv) {gap rest : List Byte} (hlen : gap.length = 6)
    (hplain : ∀ b ∈ gap, b ≠ Config.sentinel) {n : Nat} {q : ControlPacket} :
    EndsFrame (f.buf ++ (gap ++ rest)) (n + 6 + f.buf.length) q ↔ EndsFrame rest n q := by
  rcases hin : f.inFrame with _ | _
  · rw [h.buf_of_scanning hin, List.nil_append, List.length_nil, Nat.add_zero, ← hlen, endsFrame_plain_append hplain]
  · have hhead := h.starts_with_sentinel hin
    have hpos : 0 < f.buf.length := (List.getElem?_eq_some_iff.1 hhead).1
    have hfill : f.buf.length ≤ 6 := h.holds_fill_bytes ▸ h.fill_le
    have hclosing : (gap.take (7 - f.buf.length)).length = 7 - f.buf.length := by rw [List.length_take]; omega
    have hwindow : (f.buf ++ gap.take (7 - f.buf.length)).length = 7 := by rw [List.length_append, hclosing]; omega
    have hwhead : (f.buf ++ gap.take (7 - f.buf.length))[0]? = some Config.sentinel := by
      rw [List.getElem?_append_left hpos, hhead]
    have hend : n + 6 + f.buf.length = n + (gap.drop (7 - f.buf.length)).length + 7 := by
      rw [List.length_drop]; omega
    have hstream : f.buf ++ (gap ++ rest) =
        (f.buf ++ gap.take (7 - f.buf.length)) ++ (gap.drop (7 - f.buf.length) ++ rest) := by
      rw [List.append_assoc, ← List.append_assoc (gap.take _), List.take_append_drop]
    rw [hstream, hend, endsFrame_after_window hwindow hwhead,
      endsFrame_plain_append fun b hb => hplain b (List.mem_of_mem_drop hb)]

/-! ### FSYNC after a packet -/

/-- An operation that shows a packet is FS.CLOSE, which leaves FSYNC as after reset (R115, R183). -/
theorem exec_fsync_of_packet {i : Instr} {s t : State} (h : exec i s = .next t) (hpkt : t.out.pkt.isSome = true) :
    t.fsync = Fsync.reset := by
  obtain ⟨-, -, -, hclose, -⟩ := (exec_drives h).codes
  have hmnemonic : i.mnemonic = "FS.CLOSE" := (hclose hpkt).1
  cases i
  case fsClose c => exact exec_fsClose_fsync h
  all_goals simp [Instr.mnemonic] at hmnemonic

/-- A step that shows a packet leaves FSYNC as after reset: both come from the event's own operation. -/
theorem successor_fsync_of_packet {s : State} (h : s.successor.out.pkt.isSome = true) :
    s.successor.fsync = Fsync.reset := by
  rcases hi : s.input with _ | ⟨e, rest⟩
  · rw [successor_of_step (step_nil hi)] at h
    cases h
  · obtain ⟨t, u, ht, hu, hfsync, hout, -⟩ := step_own_operation hi
    rw [successor_of_step hu] at h ⊢
    rw [hout] at h
    exact hfsync.trans (exec_fsync_of_packet ht h)

/-- The last observation of a run is that of its last state. -/
theorem observe_getLast? (n : Nat) (s : State) :
    (State.observe (n + 1) s).getLast? = some (State.after (n + 1) s).observation := by
  induction n generalizing s with
  | zero => rfl
  | succ n ih =>
    rw [observe_succ, after_succ, ← ih s.successor, observe_succ n, List.getLast?_cons_cons]

/-- A run whose last step shows a packet leaves FSYNC as after reset. -/
theorem after_fsync_of_last_packet {n : Nat} {s : State} {q : ControlPacket}
    (h : (State.observe n s).getLast?.bind Observation.packet = some q) : (State.after n s).fsync = Fsync.reset := by
  cases n with
  | zero => cases h
  | succ n =>
    rw [observe_getLast?, Option.bind_some] at h
    rw [after_add n 1, after_succ, after_zero] at h ⊢
    exact successor_fsync_of_packet (Option.isSome_of_eq_some h)

/-! ### Cycles that each present a byte -/

/-- The cycles that present the bytes, one each, with what FSAFE samples beside them. -/
def byteCycles (bytes : List Byte) (inputs : List FsafeInputs) : List LinkCycle :=
  (bytes.zip inputs).map fun x => ⟨rxByte x.1, x.2⟩

theorem byteCycles_event (bytes : List Byte) (inputs : List FsafeInputs) :
    (byteCycles bytes inputs).map LinkCycle.event =
      List.zipWith (fun b i => Event.rx false (rxByte b) i) bytes inputs := by
  rw [byteCycles, List.map_map, ← List.map_uncurry_zip_eq_zipWith]
  rfl

theorem byteCycles_rxw {bytes : List Byte} {inputs : List FsafeInputs} (h : bytes.length ≤ inputs.length) :
    (byteCycles bytes inputs).map LinkCycle.rxw = bytes.map rxByte := by
  conv_rhs => rw [← List.map_fst_zip h]
  rw [byteCycles, List.map_map, List.map_map]
  rfl

theorem presentedBytes_rxByte (bytes : List Byte) : presentedBytes (bytes.map rxByte) = bytes := by
  induction bytes with
  | nil => rfl
  | cons b bytes ih => rw [List.map_cons, presentedBytes_cons_byte (rxValid_rxByte b), rxData_rxByte, ih]

theorem shownAtBytes_rxByte {bytes : List Byte} {os : List Observation} (h : bytes.length = os.length) :
    shownAtBytes (bytes.map rxByte) os = os := by
  induction bytes generalizing os with
  | nil => exact (List.eq_nil_of_length_eq_zero h.symm).symm
  | cons b bytes ih =>
    obtain _ | ⟨o, os⟩ := os
    · cases h
    · rw [List.map_cons, shownAtBytes_cons_byte (rxValid_rxByte b), ih (Nat.succ.inj h)]

/-- The packets shown by such cycles are those of the frames of the bytes held and then presented. -/
theorem observeEvents_byteCycles_iff {s : State} (h : s.fsync.Inv) {bytes : List Byte} {inputs : List FsafeInputs}
    (hlen : bytes.length = inputs.length) (j : Nat) (q : ControlPacket) :
    (s.observeEvents ((byteCycles bytes inputs).map LinkCycle.event))[j]?.bind Observation.packet = some q ↔
      EndsFrame (s.fsync.buf ++ bytes) (j + s.fsync.buf.length) q := by
  have hiff := shownAtBytes_packet_iff (byteCycles bytes inputs) h j q
  have hshown : bytes.length = (s.observeEvents ((byteCycles bytes inputs).map LinkCycle.event)).length := by
    rw [State.observeEvents, observe_length, byteCycles, List.length_map, List.length_map, List.length_zip, ← hlen,
      Nat.min_self]
  rwa [byteCycles_rxw hlen.le, presentedBytes_rxByte, shownAtBytes_rxByte hshown] at hiff

/-- Settles O8: the frame is one of the stream of the bytes held, the gap and the frame (`endsFrame_after_gap`), so its
last byte shows the packet, and the run leaves FSYNC as after reset (`after_fsync_of_last_packet`). -/
theorem sixPlainBytesGuaranteeRecognition : Obligations.SixPlainBytesGuaranteeRecognition := by
  intro s gap q inputs hinv hgap hplain hinputs es
  have hbytes : (gap ++ frameEncode q).length = inputs.length := by rw [List.length_append, hgap, hinputs]; rfl
  have hes : es = (byteCycles (gap ++ frameEncode q) inputs).map LinkCycle.event := (byteCycles_event _ _).symm
  have hcount : (s.observeEvents es).length = 13 := by
    rw [State.observeEvents, observe_length, List.length_zipWith, hbytes, hinputs, Nat.min_self]
  have hlast : (s.observeEvents es).getLast?.bind Observation.packet = some q := by
    rw [List.getLast?_eq_getElem?, hcount, hes, observeEvents_byteCycles_iff hinv hbytes]
    exact (endsFrame_after_gap hinv hgap hplain (n := 6)).2 (endsFrame_frameEncode q)
  exact ⟨hlast, after_fsync_of_last_packet hlast⟩

/-! ### Runs without polls -/

/-- The operations that may leave FSAFE in Failsafe: a bare poll and a reset that reaches it (R164, R210). -/
def mayEnterFailsafe : Instr → Bool
  | .fsfPoll _ => true
  | .reset line => line != .fsync
  | _ => false

/-- An operation that may not enter Failsafe makes FSAFE Active with a packet, or leaves it. -/
theorem exec_fsafe_of_not_mayEnterFailsafe {i : Instr} {s t : State} (h : exec i s = .next t)
    (hi : mayEnterFailsafe i = false) :
    ((acceptedAxes i).isSome = true ∧ t.fsafe.linkState = .active) ∨ t.fsafe = s.fsafe := by
  rcases (exec_fsafe_cases h).2 with
    ⟨q, now, rfl, hf⟩ | ⟨q, now, rfl, hf⟩ | ⟨now, rfl, -⟩ | ⟨line, rfl, hline, -⟩ | ⟨-, -, hkept⟩
  · exact .inl ⟨rfl, by rw [hf]; rfl⟩
  · exact .inl ⟨rfl, by rw [hf]; rfl⟩
  · cases hi
  · exact absurd (bne_eq_false_iff_eq.1 hi) hline
  · exact .inr hkept

theorem mayEnterFailsafe_decodeRxw (inFrame : Bool) (fill : BitVec 3) (w : BitVec 9) :
    mayEnterFailsafe (decodeRxw inFrame fill w) = false := by
  unfold decodeRxw
  split_ifs <;> rfl

theorem mayEnterFailsafe_decodePlw (w : BitVec 49) : mayEnterFailsafe (decodePlw w) = false := by
  unfold decodePlw
  split_ifs <;> rfl

theorem mayEnterFailsafe_decodeCtlw {w : BitVec 74} (h : ctlPoll w = false) :
    mayEnterFailsafe (decodeCtlw w) = false := by
  rw [decodeCtlw, h]
  cases ctlPktValid w <;> rfl

/-- The own operation of an event that neither polls nor resets FSAFE. -/
theorem mayEnterFailsafe_decodeEvent {link : Link} {e : Event} (h : pollsOrResetsFsafe link e = false)
    (ctx : DecodeCtx) : mayEnterFailsafe (decodeEvent ctx e) = false := by
  cases e
  case rx rst w inputs =>
    cases rst
    · exact mayEnterFailsafe_decodeRxw _ _ w
    · rfl
  case pl w inputs => exact mayEnterFailsafe_decodePlw w
  case ctl rst w =>
    obtain ⟨rfl, hpoll⟩ := Bool.or_eq_false_iff.1 h
    exact mayEnterFailsafe_decodeCtlw hpoll
  case resetPulse line => exact h
  all_goals rfl

/-- FSAFE's inputs in the cycle of the unit that feeds it count as polls and resets. -/
theorem pollsOrResetsFsafe_linked {link : Link} {e : Event} {inputs : FsafeInputs}
    (h : e.linkedInputs link = some inputs) : pollsOrResetsFsafe link e = (inputs.rst || inputs.poll) := by
  cases e <;> cases link <;> cases h <;> rfl

/-- FSAFE's operation on the wire in a cycle without poll and reset is a packet or nothing (R160). -/
theorem mayEnterFailsafe_decodeLinked {inputs : FsafeInputs} (h : (inputs.rst || inputs.poll) = false)
    (upstream : Option ControlPacket) : mayEnterFailsafe (decodeLinked upstream inputs) = false := by
  obtain ⟨hrst, hpoll⟩ := Bool.or_eq_false_iff.1 h
  rw [decodeLinked, hrst, hpoll]
  cases upstream with
  | none => exact mayEnterFailsafe_decodeCtlw (ctlPoll_ctlWord _ _ _ _)
  | some q => exact mayEnterFailsafe_decodeCtlw (ctlPoll_ctlWord _ _ _ _)

/-- FSAFE's operation in an event that neither polls nor resets it. -/
theorem mayEnterFailsafe_fsafeOperation {s : State} {e : Event} (h : pollsOrResetsFsafe s.params.link e = false) :
    mayEnterFailsafe (s.fsafeOperation e) = false := by
  obtain ⟨t, ht⟩ := exec_next (decodeEvent s.decodeCtx e) s
  simp only [State.fsafeOperation, ht]
  rw [← exec_params ht] at h
  rcases he : e.linkedInputs t.params.link with _ | inputs
  · rw [State.delivery_none he]
    exact mayEnterFailsafe_decodeEvent h s.decodeCtx
  · rw [State.delivery_linked he]
    exact mayEnterFailsafe_decodeLinked (pollsOrResetsFsafe_linked he ▸ h) t.upstream

/-- An event that neither polls nor resets FSAFE makes it Active with a packet, or leaves it. -/
theorem step_fsafe_of_not_pollsOrResetsFsafe {s t : State} {e : Event} {rest : List Event} (hi : s.input = e :: rest)
    (h : step s = .next t) (he : pollsOrResetsFsafe s.params.link e = false) :
    ((acceptedAxes (s.fsafeOperation e)).isSome = true ∧ t.fsafe.linkState = .active) ∨ t.fsafe = s.fsafe := by
  obtain ⟨-, s₁, t₁, -, hs₁, hexec, ht₁⟩ := step_fsafe hi h
  rw [ht₁, ← hs₁]
  exact exec_fsafe_of_not_mayEnterFailsafe hexec (mayEnterFailsafe_fsafeOperation he)

/-- What is presented later changes nothing of FSAFE's operation in an event. -/
theorem fsafeOperation_with_input (s : State) (e : Event) (es : List Event) :
    State.fsafeOperation { s with input := es } e = s.fsafeOperation e := by
  obtain ⟨t, ht⟩ := exec_next (decodeEvent s.decodeCtx e) s
  have hexec : exec (decodeEvent (State.decodeCtx { s with input := es }) e) { s with input := es } =
      .next { t with input := es } := exec_with_input ht es
  simp only [State.fsafeOperation, ht, hexec]
  rfl

/-- What is presented later changes nothing of the rest of an event's cycle. -/
theorem finishCycle_with_input {e : Event} {t u : State} (h : finishCycle e (.next t) = .next u) (es : List Event) :
    finishCycle e (.next { t with input := es }) = .next { u with input := es } := by
  rcases he : e.linkedInputs t.params.link with _ | inputs
  · rw [finishCycle_alone he] at h
    cases h
    exact finishCycle_alone he
  · obtain ⟨v, hv⟩ := exec_next (decodeLinked t.upstream inputs) t
    rw [finishCycle_linked he hv] at h
    cases h
    exact finishCycle_linked (t := { t with input := es }) he (exec_with_input hv es)

/-- What is presented later changes nothing of a step but what is left to present. -/
theorem step_with_input {s t : State} {e : Event} {rest : List Event}
    (h : step { s with input := e :: rest } = .next t) (es : List Event) :
    step { s with input := e :: es } = .next { t with input := es } := by
  obtain ⟨u, hu⟩ := exec_next (decodeEvent s.decodeCtx e) { s with input := rest }
  have hcycle : finishCycle e (.next u) = .next t := by
    rw [← h, step_cons (s := { s with input := e :: rest }) rfl, ← hu]
    rfl
  have hexec : exec (decodeEvent s.decodeCtx e) { s with input := es } = .next { u with input := es } :=
    exec_with_input hu es
  rw [step_cons (s := { s with input := e :: es }) rfl, ← finishCycle_with_input hcycle es, ← hexec]
  rfl

/-- A run is its first event's run and then the run of the rest. -/
theorem runEvents_cons_eq_runEvents (s : State) (e : Event) (es : List Event) :
    s.runEvents (e :: es) = (s.runEvents [e]).runEvents es := by
  obtain ⟨t, ht⟩ := stepAlwaysAnswersNext { s with input := [e] }
  rw [runEvents_single ht, runEvents_cons (step_with_input ht es)]
  rfl

/-- Settles O39: by induction on the events, each of which makes FSAFE Active with a packet or leaves it
(`step_fsafe_of_not_pollsOrResetsFsafe`). -/
theorem withoutPollsFailsafeIsNeverEntered : Obligations.WithoutPollsFailsafeIsNeverEntered := by
  intro es
  induction es with
  | nil => exact fun s hs _ => ⟨hs, fun _ => rfl⟩
  | cons e es ih =>
    intro s hs hes
    obtain ⟨he, hrest⟩ := List.forall_mem_cons.1 hes
    obtain ⟨t, ht⟩ := stepAlwaysAnswersNext { s with input := [e] }
    have hrun : s.runEvents [e] = t := runEvents_single ht
    have hp : t.params = s.params := (step_fsafe rfl ht).1
    have hcases := step_fsafe_of_not_pollsOrResetsFsafe (s := { s with input := [e] }) rfl ht he
    rw [fsafeOperation_with_input] at hcases
    have hactive : t.fsafe.linkState = .active := by
      rcases hcases with ⟨-, hl⟩ | hkept
      · exact hl
      · rw [hkept, hs]
    obtain ⟨hend, hsame⟩ := ih t hactive (hp ▸ hrest)
    rw [runEvents_cons_eq_runEvents, hrun, State.acceptsAlong, hrun, Bool.or_eq_false_iff]
    refine ⟨hend, fun ⟨hnone, hlater⟩ => ?_⟩
    rcases hcases with ⟨hsome, -⟩ | hkept
    · rw [hnone] at hsome; cases hsome
    · exact (hsame hlater).trans hkept

end Sys2Proof.Machine
end
